-- ==== Sys2Proof/Word.lean ====
section
/-! DEFINITION. The word types of the block: bytes, 16-bit fields, 64-bit floating-point patterns
and the 18-byte frame (00_scope.md R9 to R12, 10_state.md R32 and R37). -/

namespace Sys2Proof

/-- A byte, 8 bits; bit 0 is the least significant (R9, R10). -/
abbrev Byte := BitVec 8

/-- The 16 bits of one measurement field (R76); `BitVec.toInt` is the spec's `sext_16` (R12). -/
abbrev Half := BitVec 16

/-- An IEEE 754 binary64 pattern, the register form of a `Temp` (R32, decision D2). -/
abbrev F64 := BitVec 64

/-- Eighteen bytes, offset 0 first on the wire (R37, R75). -/
abbrev Frame := Vector Byte 18

end Sys2Proof
end

