-- ==== Sys2Proof/Config.lean ====
section
/-! DEFINITION. The constants the source fixes (00_scope.md R7), the three OPEN parameters it leaves
to the implementation (R8), and the values it leaves free: what the `now` input carries
(44_message_codec.md R222, decision D8; notes/assumptions/3.md) and what a level-F operation gives on
operands for which its rule states no result (notes/assumptions/13.md). -/

namespace Sys2Proof.Config

/-- `MSG_LEN`, bytes in one wire frame (R7). -/
abbrev msgLen : Nat := 18
/-- `HDR0`, frame byte 0 (R7, R102). -/
abbrev hdr0 : Byte := 0x65
/-- `HDR1`, frame byte 1 (R7, R102). -/
abbrev hdr1 : Byte := 0x14
/-- `TRL0`, frame byte 16 (R7, R112). -/
abbrev trl0 : Byte := 0x0D
/-- `TRL1`, frame byte 17 (R7, R112). -/
abbrev trl1 : Byte := 0x0A
/-- `FLAG_VALID`, status-flag bit "value valid" (R7, R108). -/
abbrev flagValid : Byte := 0x08
/-- `FLAG_INVALID`, status-flag bit "value invalid" (R7, R108). -/
abbrev flagInvalid : Byte := 0x40
/-- `UNIT_MARK`, marker bit of the unit byte (R7, R107). -/
abbrev unitMark : Byte := 0x80
/-- `PLACEHOLDER`, the count written for a non-finite channel (R7, R182). -/
abbrev placeholder : Int := -32768
/-- `TENTHS`, the scale between a temperature and its wire integer (R7). -/
abbrev tenths : Nat := 10
/-- The one NaN pattern decode writes (R32, decision D2). -/
abbrev quietNaN : F64 := 0x7FF8000000000000

/-- `OUT_CAP` for a buffer of `bufCap` bytes (R8, R55). -/
abbrev outCap (bufCap : Nat) : Nat := bufCap / msgLen

/-- A value of the OPEN parameter `BUF_CAP`: at least 18 bytes, said as how many it has above 18, or
the unbounded buffer a model may take (R8, R54, decision D15). -/
inductive BufCap where
  | unbounded
  | bytes (above18 : Nat)
  deriving DecidableEq, Repr, Inhabited

/-- PARAMETER `BUF_CAP` of the implementation (R8): OPEN, so it has no body, and what is proved holds
for every capacity (notes/assumptions/7.md). -/
opaque bufCap : BufCap

/-- PARAMETER `TS_W`, the width of `system_time` and of the `now` input (R8, R36): OPEN, so it has no
body (notes/assumptions/4.md). -/
opaque tsW : Nat

/-- PARAMETER `MT_FRAC_W`, the count of fraction bits of `meter_time` (R8, R35): OPEN with default 0,
so it has no body and the default is one of its values (notes/assumptions/5.md). -/
opaque mtFracW : Nat

/-- FREE VALUE: what the `now` input carries at the n-th draw when the host has lined up no value on
it. The spec puts no law on it (R222, decision D8), so it has no body: nothing can be proved of
it. -/
opaque freeNow : Nat → BitVec tsW

/-- FREE VALUE: the current time of the n-th success of a call of `ParseStream` whose supply of times
has no n-th value (45_stream_framer.md R241; notes/assumptions/16.md). -/
opaque freeTime : List Byte → List (BitVec tsW) → Nat → BitVec tsW

/-- FREE VALUE: the 16 bits taken from a count outside -32768..32767 (40_field_primitives.md R146,
R147, 42_temperature.md R184; notes/assumptions/13.md). -/
opaque freeCount : Int → Half

/-- FREE VALUE: `TenthsOf` of a value that is not finite (42_temperature.md R180;
notes/assumptions/13.md). -/
opaque freeTenths : F64 → Option Int

/-- FREE VALUE: the byte at an index past the end of a sequence (40_field_primitives.md R150;
notes/assumptions/13.md). -/
opaque freeByte : List Byte → Nat → Byte

end Sys2Proof.Config
end

