-- ==== Sys2Proof/Syntax.lean ====
section
/-! DEFINITION. The operations of the block: one constructor of `Instr` for each row of
spec/opcode_table.json (30_encoding.md R116), with the values they carry. -/

namespace Sys2Proof

/-- `TemperatureUnit` (10_state.md R33, 41_enum_codec.md R160). -/
inductive TemperatureUnit where
  | celsius | fahrenheit | kelvin
  deriving DecidableEq, Repr

/-- `ThermocoupleType` (10_state.md R34, 41_enum_codec.md R161). -/
inductive ThermocoupleType where
  | k | j | t | e | r | s | n
  deriving DecidableEq, Repr

/-- The one-bit masks `TestBit` takes, `0x08` and `0x40` (40_field_primitives.md R149). -/
inductive FlagMask where
  | valid | invalid
  deriving DecidableEq, Repr

/-- Sub-causes of FormatError (60_exceptions.md R285). -/
inductive FormatCause where
  | header | trailer | tcEnum | unitEnum
  deriving DecidableEq, Repr

/-- Sub-causes of RangeError: `TEMP` as `PackTemp` raises it (42_temperature.md R181), and the five that
`Encode` reports, which have codes (60_exceptions.md R285). -/
inductive RangeCause where
  | temp | temp1 | temp2 | hours | tcCode | unitCode
  deriving DecidableEq, Repr

/-- The four error kinds with their sub-causes (60_exceptions.md R280 to R285). -/
inductive Err where
  | format (c : FormatCause)
  | shape
  | range (c : RangeCause)
  | length
  deriving DecidableEq, Repr

/-- A `TS_W`-bit time stamp (10_state.md R36). -/
abbrev Time := BitVec Config.tsW

/-- The `MT_FRAC_W` bits of a fraction of a second (10_state.md R35). -/
abbrev Fraction := BitVec Config.mtFracW

/-- A `MeterTimeDuration` as the register holds it (10_state.md R35): whole seconds in `MT_W` = 20
bits and the fraction of a second in `MT_FRAC_W` bits. -/
structure Duration where
  sec : BitVec 20
  frac : Fraction
  deriving DecidableEq, Repr

/-- An `Observation` in its register form, two channel fields (10_state.md R31 to R36). `units` and
`tc` hold the backing integers, 0 naming no value. `systemTime` is an opaque copy of `now`. -/
structure Record where
  t0 : F64
  t1 : F64
  units : BitVec 2
  tc : BitVec 3
  systemTime : Time
  meterTime : Duration
  deriving DecidableEq, Repr

/-- An `Observation` as the level-F `Encode` takes it: `channel_temp` a sequence, so that ShapeError
can be stated (44_message_codec.md R215, R216). -/
structure Observation where
  channelTemp : List F64
  units : BitVec 2
  tc : BitVec 3
  systemTime : Time
  meterTime : Duration
  deriving DecidableEq, Repr

/-- Every bit of an accepted `FRAME18` that is not a constant (30_encoding.md R101): the ignored bits
(R119) are kept, so that decoding drops none. -/
structure FrameFields where
  pad : BitVec 24
  m1 : Half
  m2 : Half
  tcHigh : BitVec 4
  tc : ThermocoupleType
  unitHigh : BitVec 4
  units : TemperatureUnit
  fl1 : Byte
  fl2 : Byte
  hh : Byte
  mm : Byte
  ss : Byte
  deriving DecidableEq, Repr

/-- One operation of the block (INDEX.md: "instruction" in the checklist's sense), one constructor
for each row of the opcode table. An `ENUM4` row carries the high nibble of its byte, a `FLAG8` row
the other bits of its byte, a `FUNC` row its operands (30_encoding.md R116). -/
inductive Instr where
  /-- `FRAME18`: one accepted frame. -/
  | frame18 (f : FrameFields)
  /-- `UNIT.C` in a unit byte with this high nibble. -/
  | unitC (high : BitVec 4)
  /-- `UNIT.F`. -/
  | unitF (high : BitVec 4)
  /-- `UNIT.K`. -/
  | unitK (high : BitVec 4)
  /-- `TC.K` in a thermocouple byte with this high nibble. -/
  | tcK (high : BitVec 4)
  /-- `TC.J`. -/
  | tcJ (high : BitVec 4)
  /-- `TC.T`. -/
  | tcT (high : BitVec 4)
  /-- `TC.E`. -/
  | tcE (high : BitVec 4)
  /-- `TC.R`. -/
  | tcR (high : BitVec 4)
  /-- `TC.S`. -/
  | tcS (high : BitVec 4)
  /-- `TC.N`. -/
  | tcN (high : BitVec 4)
  /-- `FLAG.VALID`: a flag byte with bit 3 set; `high` is bits 7:4, `low` bits 2:0. -/
  | flagValid (high : BitVec 4) (low : BitVec 3)
  /-- `FLAG.INVALID`: a flag byte with bit 6 set and bit 3 clear (with bit 3 set the byte is
  `FLAG.VALID`, R186); `b7` is bit 7, `mid` bits 5:4, `low` bits 2:0. -/
  | flagInvalid (b7 : BitVec 1) (mid : BitVec 2) (low : BitVec 3)
  /-- Command `NOP`. -/
  | cmdNop
  /-- Command `ENCODE`. -/
  | cmdEncode
  /-- Command `DECODE`. -/
  | cmdDecode
  /-- Command `PARSE`. -/
  | cmdParse
  | getU8 (F : Frame) (o : Fin 18)
  | getU16BE (F : Frame) (o : Fin 17)
  | getU16LE (F : Frame) (o : Fin 17)
  | getS16BE (F : Frame) (o : Fin 17)
  | putU8 (F : Frame) (o : Fin 18) (v : Byte)
  | putS16BE (F : Frame) (o : Fin 17) (k : Int)
  | putS16LE (F : Frame) (o : Fin 17) (k : Int)
  | lowNibble (b : Byte)
  | testBit (b : Byte) (m : FlagMask)
  | eq2 (S : List Byte) (i : Nat) (c0 c1 : Byte)
  | decUnit (b : Byte)
  | encTc (tc : ThermocoupleType)
  | encUnit (u : TemperatureUnit)
  | decTc (b : Byte)
  | tenthsOf (v : F64)
  | packTemp (t : F64)
  | unpackTemp (k : Int) (fl : Byte)
  | wholeSeconds (d : Duration)
  | splitTime (total : Nat)
  | packTime (d : Duration)
  | joinTime (hh mm ss : Byte)
  /-- The function `Encode`. -/
  | fnEncode (x : Observation)
  /-- The function `Decode`. -/
  | fnDecode (F : List Byte) (now : Time)
  | findHeader (B : List Byte) (c : Nat)
  | parseStream (B : List Byte) (nows : List Time)
  deriving DecidableEq, Repr

end Sys2Proof
end

