-- ==== Sys2Proof/WellFormed.lean ====
section
/-! DEFINITION. The domains the spec puts on operands that the types of `Instr` do not already
carry. On other operands the rule of an operation states no result: the operation runs and that value
is free (notes/assumptions/13.md). -/

namespace Sys2Proof

/-- `k` is in -32768..32767 (00_scope.md R12). -/
abbrev inS16 (k : Int) : Bool := decide (-32768 ≤ k) && decide (k ≤ 32767)

/-- A binary64 pattern is finite exactly when its exponent field is not all ones (10_state.md R32). -/
abbrev finiteTemp (t : F64) : Bool := t.extractLsb' 52 11 != 0x7FF#11

/-- The domain of each operation: `k` of `PutS16BE`, `PutS16LE` and `UnpackTemp` is a signed 16-bit
integer (R146, R147, R184); `Eq2` reads inside its sequence (R150); `TenthsOf` takes a finite value
(R180); `FindHeader` starts inside its sequence (R240); `ParseStream` has a current-time value for
each of the at most `|B| / 18` observations it can decode (R241, R258). -/
def Instr.wf : Instr → Bool
  | .putS16BE _ _ k => inS16 k
  | .putS16LE _ _ k => inS16 k
  | .eq2 S i _ _ => decide (i + 2 ≤ S.length)
  | .tenthsOf v => finiteTemp v
  | .unpackTemp k _ => inS16 k
  | .findHeader B c => decide (c ≤ B.length)
  | .parseStream B nows => decide (B.length / 18 ≤ nows.length)
  | .frame18 _ | .unitC _ | .unitF _ | .unitK _ | .tcK _ | .tcJ _ | .tcT _ | .tcE _ | .tcR _ | .tcS _
  | .tcN _ | .flagValid _ _ | .flagInvalid _ _ _ | .cmdNop | .cmdEncode | .cmdDecode | .cmdParse
  | .getU8 _ _ | .getU16BE _ _ | .getU16LE _ _ | .getS16BE _ _ | .putU8 _ _ _ | .lowNibble _
  | .testBit _ _ | .decUnit _ | .encTc _ | .encUnit _ | .decTc _ | .packTemp _ | .wholeSeconds _
  | .splitTime _ | .packTime _ | .joinTime _ _ _ | .fnEncode _ | .fnDecode _ _ => true

end Sys2Proof
end

