-- ==== Sys2Proof/Machine/Operands.lean ====
section
/-! DEFINITION. Functional unit (a), the field extractor and inserter: how an operand is taken out
of a frame or a byte sequence and put into one (40_field_primitives.md R140 to R150;
00_scope.md R12). -/

namespace Sys2Proof.Machine

/-- `sext_16` (R12). -/
def sext16 (u : Half) : Int := u.toInt

/-- `u16(k)` for `k` in -32768..32767 (R12). -/
def u16 (k : Int) : Half := BitVec.ofInt 16 k

/-- The more significant byte, `u[15:8]` (R10). -/
def hiByte (u : Half) : Byte := u.extractLsb' 8 8

/-- The less significant byte, `u[7:0]` (R10). -/
def loByte (u : Half) : Byte := u.extractLsb' 0 8

/-- `GetU8(F, o)` (R141). -/
def getU8 (F : Frame) (o : Fin 18) : Byte := F[o]

/-- `GetU16BE(F, o)`: the byte at the lower offset is the more significant (R142, R76). -/
def getU16BE (F : Frame) (o : Fin 17) : Half := F[o.val] ++ F[o.val + 1]

/-- `GetU16LE(F, o)`: the byte at the lower offset is the less significant (R143). -/
def getU16LE (F : Frame) (o : Fin 17) : Half := F[o.val + 1] ++ F[o.val]

/-- `GetS16BE(F, o)` (R144). -/
def getS16BE (F : Frame) (o : Fin 17) : Int := sext16 (getU16BE F o)

/-- `PutU8(F, o, v)` (R145). -/
def putU8 (F : Frame) (o : Fin 18) (v : Byte) : Frame := F.set o v

/-- `PutS16BE(F, o, k)` (R146). -/
def putS16BE (F : Frame) (o : Fin 17) (k : Int) : Frame :=
  (F.set o.val (hiByte (u16 k))).set (o.val + 1) (loByte (u16 k))

/-- `PutS16LE(F, o, k)`: `PutS16BE` with the two bytes exchanged (R147). -/
def putS16LE (F : Frame) (o : Fin 17) (k : Int) : Frame :=
  (F.set o.val (loByte (u16 k))).set (o.val + 1) (hiByte (u16 k))

/-- `LowNibble(b)`, `b & 0x0F` as a value 0..15 (R148). -/
def lowNibble (b : Byte) : BitVec 4 := b.extractLsb' 0 4

/-- The bits 7:4 of a byte, which the enum decoders ignore (R106, R107). -/
def highNibble (b : Byte) : BitVec 4 := b.extractLsb' 4 4

/-- `Eq2(S, i, c0, c1)`; false where the sequence has no byte `i + 1` (R150). -/
def eq2 (S : List Byte) (i : Nat) (c0 c1 : Byte) : Bool :=
  S[i]? == some c0 && S[i + 1]? == some c1

/-- The count an operand stands for: itself in -32768..32767 (R146, R147; 42_temperature.md R184), else
a free value of that range, since no rule says what a wider count gives (notes/assumptions/13.md). -/
def countOperand (k : Int) : Int := if inS16 k then k else sext16 (Config.freeCount k)

/-- The byte at an index of a sequence, a free value past its end (R150; notes/assumptions/13.md). -/
def byteOperand (S : List Byte) (i : Nat) : Byte := S[i]?.getD (Config.freeByte S i)

/-- A byte sequence of length 18 as a frame. -/
def frameOf (F : List Byte) (h : F.length = 18) : Frame := ⟨F.toArray, by simpa using h⟩

end Sys2Proof.Machine
end

