-- ==== Sys2Proof/Machine/Flags.lean ====
section
/-! DEFINITION. Every flag the spec gives: the status-flag bytes of a frame, which are data
(10_state.md R43, 42_temperature.md R183, R186), and the three bits of `STATUS` (10_state.md R44,
R46). -/

namespace Sys2Proof.Machine

/-- The byte of a `TestBit` mask (40_field_primitives.md R149). -/
def maskByte : FlagMask → Byte
  | .valid => Config.flagValid
  | .invalid => Config.flagInvalid

/-- `TestBit(b, m)` (R149). -/
def testBit (b : Byte) (m : FlagMask) : Bool := (b &&& maskByte m) != 0

/-- A channel is valid exactly when bit 3 of its flag byte is 1 (R186). -/
def channelValid (fl : Byte) : Bool := testBit fl .valid

/-- The flag byte `Encode` writes for a finite or a non-finite channel (R183). -/
def flagByteFor (finite : Bool) : Byte := if finite then Config.flagValid else Config.flagInvalid

/-- `STATUS` bit 0, `busy` (R46). -/
def statusBusy (st : BitVec 3) : Bool := st.getLsbD 0

/-- `STATUS` bit 1, `done` (R46). -/
def statusDone (st : BitVec 3) : Bool := st.getLsbD 1

/-- `STATUS` bit 2, `err` (R46). -/
def statusErr (st : BitVec 3) : Bool := st.getLsbD 2

/-- `STATUS` on the start of a command: busy 1, done 0, err 0 (R46). -/
def statusStart : BitVec 3 := 0b001

/-- `STATUS` at the end of a command whose `ERR` is `e`: busy 0, done 1, err 1 exactly when `e` is
not 0 (R46). -/
def statusEnd (e : BitVec 3) : BitVec 3 := if e = 0 then 0b010 else 0b110

/-- The `ERR` code of an error (60_exceptions.md R285). -/
def errCode : Err → BitVec 3
  | .format _ => 1
  | .shape => 2
  | .range _ => 3
  | .length => 4

/-- The `ERRSUB` code of an error (60_exceptions.md R285). `RangeError(TEMP)` has none: no command ends
with it, as `Encode` reports it by channel (44_message_codec.md R217; notes/assumptions/21.md). -/
def errSubCode : Err → BitVec 3
  | .format .header => 1
  | .format .trailer => 2
  | .format .tcEnum => 3
  | .format .unitEnum => 4
  | .range .temp => 0
  | .range .temp1 => 1
  | .range .temp2 => 2
  | .range .hours => 3
  | .range .tcCode => 4
  | .range .unitCode => 5
  | .shape => 0
  | .length => 0

end Sys2Proof.Machine
end

