-- ==== Sys2Proof/Machine/Enums.lean ====
section
/-! DEFINITION. Functional unit (b), the enum encoder and decoder (41_enum_codec.md R160 to R167).
The two code tables stand here and nowhere else (91_not_in_source.md N7). -/

namespace Sys2Proof.Machine

/-- Celsius = 1, Fahrenheit = 2, Kelvin = 3 (R160). -/
def unitCode : TemperatureUnit → BitVec 2
  | .celsius => 1
  | .fahrenheit => 2
  | .kelvin => 3

/-- K = 1, J = 2, T = 3, E = 4, R = 5, S = 6, N = 7 (R161). -/
def tcCode : ThermocoupleType → BitVec 3
  | .k => 1
  | .j => 2
  | .t => 3
  | .e => 4
  | .r => 5
  | .s => 6
  | .n => 7

/-- The unit a 4-bit code names, if it names one (R160, 30_encoding.md R118). -/
def unitOfCode (n : BitVec 4) : Option TemperatureUnit :=
  match n.toNat with
  | 1 => some .celsius
  | 2 => some .fahrenheit
  | 3 => some .kelvin
  | _ => none

/-- The thermocouple type a 4-bit code names, if it names one (R161, 30_encoding.md R118). -/
def tcOfCode (n : BitVec 4) : Option ThermocoupleType :=
  match n.toNat with
  | 1 => some .k
  | 2 => some .j
  | 3 => some .t
  | 4 => some .e
  | 5 => some .r
  | 6 => some .s
  | 7 => some .n
  | _ => none

/-- `DecUnit(b)` (R162). -/
def decUnit (b : Byte) : Except Err TemperatureUnit :=
  match unitOfCode (lowNibble b) with
  | some u => .ok u
  | none => .error (.format .unitEnum)

/-- `DecTc(b)` (R165). -/
def decTc (b : Byte) : Except Err ThermocoupleType :=
  match tcOfCode (lowNibble b) with
  | some ty => .ok ty
  | none => .error (.format .tcEnum)

/-- `EncTc(tc)` (R163). -/
def encTc (ty : ThermocoupleType) : Byte := (tcCode ty).setWidth 8

/-- `EncUnit(u)` (R164). -/
def encUnit (u : TemperatureUnit) : Byte := (unitCode u).setWidth 8 ||| Config.unitMark

/-- The thermocouple byte for a register code; code 0 is RangeError(TC_CODE) (R163, R167). -/
def encTcReg (c : BitVec 3) : Except Err Byte :=
  match tcOfCode (c.setWidth 4) with
  | some ty => .ok (encTc ty)
  | none => .error (.range .tcCode)

/-- The unit byte for a register code; code 0 is RangeError(UNIT_CODE) (R164, R167). -/
def encUnitReg (c : BitVec 2) : Except Err Byte :=
  match unitOfCode (c.setWidth 4) with
  | some u => .ok (encUnit u)
  | none => .error (.range .unitCode)

end Sys2Proof.Machine
end

