-- ==== Sys2Proof/Decode.lean ====
section
/-! DEFINITION. The decoder from the encodings of 30_encoding.md to `Instr`, total and rejecting by
name, and after it the encoder written from the same tables. -/

namespace Sys2Proof

open Sys2Proof.Machine

/-- A word in one of the four formats that have bits (30_encoding.md R116): `FRAME18`; `ENUM4` in the
byte that carries it, which says which of the two tables applies (R106, R107); `FLAG8`; `CMD2`. The
fifth format, `FUNC`, has no bits. -/
inductive Wire where
  | frame (F : List Byte)
  | unitByte (b : Byte)
  | tcByte (b : Byte)
  | flagByte (b : Byte)
  | command (c : BitVec 2)
  deriving DecidableEq, Repr

/-- Why a word names no operation: an error of the codec (R117, R118, 44_message_codec.md R221), or a
flag byte with neither flag bit, which the source calls "merely absent" (R108, R187). -/
inductive DecodeError where
  | codec (e : Err)
  | noFlag
  deriving DecidableEq, Repr

/-- The fields of a frame whose checks have passed (R101, R114). -/
def frameFields (G : Frame) (tc : ThermocoupleType) (u : TemperatureUnit) : FrameFields where
  pad := G[2] ++ G[3] ++ G[4]
  m1 := getU16BE G 5
  m2 := getU16BE G 7
  tcHigh := highNibble (getU8 G 9)
  tc := tc
  unitHigh := highNibble (getU8 G 10)
  units := u
  fl1 := getU8 G 11
  fl2 := getU8 G 12
  hh := getU8 G 13
  mm := getU8 G 14
  ss := getU8 G 15

/-- The checks of `Decode` in their order and the fields behind them: length, header, trailer,
thermocouple type, unit (44_message_codec.md R219 to R221; 30_encoding.md R117). -/
def decodeFrame (F : List Byte) : Except Err FrameFields :=
  if h : F.length = 18 then
    if eq2 F 0 Config.hdr0 Config.hdr1 then
      if eq2 F 16 Config.trl0 Config.trl1 then
        match decTc (getU8 (frameOf F h) 9) with
        | .error e => .error e
        | .ok tc =>
          match decUnit (getU8 (frameOf F h) 10) with
          | .error e => .error e
          | .ok u => .ok (frameFields (frameOf F h) tc u)
      else .error (.format .trailer)
    else .error (.format .header)
  else .error .length

/-- The `ENUM4` row of a unit (R160, R116). -/
def unitInstr (high : BitVec 4) : TemperatureUnit → Instr
  | .celsius => .unitC high
  | .fahrenheit => .unitF high
  | .kelvin => .unitK high

/-- The `ENUM4` row of a thermocouple type (R161, R116). -/
def tcInstr (high : BitVec 4) : ThermocoupleType → Instr
  | .k => .tcK high
  | .j => .tcJ high
  | .t => .tcT high
  | .e => .tcE high
  | .r => .tcR high
  | .s => .tcS high
  | .n => .tcN high

/-- The `FLAG8` row of a flag byte: bit 3 decides, bit 6 is looked at only when bit 3 is 0 (R108,
R186). -/
def decodeFlag (b : Byte) : Except DecodeError Instr :=
  if testBit b .valid then .ok (.flagValid (b.extractLsb' 4 4) (b.extractLsb' 0 3))
  else if testBit b .invalid then
    .ok (.flagInvalid (b.extractLsb' 7 1) (b.extractLsb' 4 2) (b.extractLsb' 0 3))
  else .error .noFlag

/-- The command of a 2-bit code; all four are assigned (R120, R121). -/
def decodeCommand (c : BitVec 2) : Instr :=
  match c.toNat with
  | 0 => .cmdNop
  | 1 => .cmdEncode
  | 2 => .cmdDecode
  | _ => .cmdParse

/-- The decoder. -/
def decode : Wire → Except DecodeError Instr
  | .frame F =>
    match decodeFrame F with
    | .ok f => .ok (.frame18 f)
    | .error e => .error (.codec e)
  | .unitByte b =>
    match decUnit b with
    | .ok u => .ok (unitInstr (highNibble b) u)
    | .error e => .error (.codec e)
  | .tcByte b =>
    match decTc b with
    | .ok ty => .ok (tcInstr (highNibble b) ty)
    | .error e => .error (.codec e)
  | .flagByte b => decodeFlag b
  | .command c => .ok (decodeCommand c)

/-- The eighteen bytes of a frame with these fields (R101, R115). -/
def encodeFrame (f : FrameFields) : Frame :=
  #v[Config.hdr0, Config.hdr1,
    f.pad.extractLsb' 16 8, f.pad.extractLsb' 8 8, f.pad.extractLsb' 0 8,
    hiByte f.m1, loByte f.m1, hiByte f.m2, loByte f.m2,
    f.tcHigh ++ (tcCode f.tc).setWidth 4, f.unitHigh ++ (unitCode f.units).setWidth 4,
    f.fl1, f.fl2, f.hh, f.mm, f.ss, Config.trl0, Config.trl1]

/-- The byte of a unit row: its high nibble and the code (R107, R160). -/
def unitByteOf (high : BitVec 4) (u : TemperatureUnit) : Byte := high ++ (unitCode u).setWidth 4

/-- The byte of a thermocouple row: its high nibble and the code (R106, R161). -/
def tcByteOf (high : BitVec 4) (ty : ThermocoupleType) : Byte := high ++ (tcCode ty).setWidth 4

/-- The byte of a `FLAG.VALID` row (R108). -/
def flagValidByte (high : BitVec 4) (low : BitVec 3) : Byte := high ++ 1#1 ++ low

/-- The byte of a `FLAG.INVALID` row (R108). -/
def flagInvalidByte (b7 : BitVec 1) (mid : BitVec 2) (low : BitVec 3) : Byte :=
  b7 ++ 1#1 ++ mid ++ 0#1 ++ low

/-- The encoder: the word of an operation that has one; a `FUNC` row has none (R116). -/
def encode : Instr → Option Wire
  | .frame18 f => some (.frame (encodeFrame f).toList)
  | .unitC high => some (.unitByte (unitByteOf high .celsius))
  | .unitF high => some (.unitByte (unitByteOf high .fahrenheit))
  | .unitK high => some (.unitByte (unitByteOf high .kelvin))
  | .tcK high => some (.tcByte (tcByteOf high .k))
  | .tcJ high => some (.tcByte (tcByteOf high .j))
  | .tcT high => some (.tcByte (tcByteOf high .t))
  | .tcE high => some (.tcByte (tcByteOf high .e))
  | .tcR high => some (.tcByte (tcByteOf high .r))
  | .tcS high => some (.tcByte (tcByteOf high .s))
  | .tcN high => some (.tcByte (tcByteOf high .n))
  | .flagValid high low => some (.flagByte (flagValidByte high low))
  | .flagInvalid b7 mid low => some (.flagByte (flagInvalidByte b7 mid low))
  | .cmdNop => some (.command 0)
  | .cmdEncode => some (.command 1)
  | .cmdDecode => some (.command 2)
  | .cmdParse => some (.command 3)
  | .getU8 _ _ | .getU16BE _ _ | .getU16LE _ _ | .getS16BE _ _ | .putU8 _ _ _ | .putS16BE _ _ _
  | .putS16LE _ _ _ | .lowNibble _ | .testBit _ _ | .eq2 _ _ _ _ | .decUnit _ | .encTc _
  | .encUnit _ | .decTc _ | .tenthsOf _ | .packTemp _ | .unpackTemp _ _ | .wholeSeconds _
  | .splitTime _ | .packTime _ | .joinTime _ _ _ | .fnEncode _ | .fnDecode _ _ | .findHeader _ _
  | .parseStream _ _ => none

/-- The bytes of a word; a command code is the low two bits of its byte (R120). -/
def Wire.bytes : Wire → List Byte
  | .frame F => F
  | .unitByte b => [b]
  | .tcByte b => [b]
  | .flagByte b => [b]
  | .command c => [c.setWidth 8]

/-- A byte sequence as one number, its first byte the most significant. -/
def bytesNat (F : List Byte) : Nat := F.foldl (fun acc b => acc * 256 + b.toNat) 0

/-- A frame read as one 144-bit value, byte 0 the most significant (10_state.md R37). -/
def frameWord (F : Frame) : BitVec 144 := BitVec.ofNat 144 (bytesNat F.toList)

/-- The mask of `FRAME18` (R113, `90_conflicts.md` C13). -/
def frameMask : BitVec 144 := 0xFFFF0000000000000000000000000000FFFF

/-- The match of `FRAME18` (R113, `90_conflicts.md` C13). -/
def frameMatch : BitVec 144 := 0x651400000000000000000000000000000D0A

/-- The eighteen bytes of a 144-bit value, bits 143:136 first (R37). -/
def wordBytes (w : Nat) : List Byte :=
  (List.range 18).map fun i => BitVec.ofNat 8 (w >>> (8 * (17 - i)))

/-- The word the opcode table writes with `nbits` bits of value `w`. The table does not say in which
field of a frame a one-byte row stands, and its formats overlap there: a value below 4 is a command
code, a byte with a status-flag bit a flag byte, a byte with the marker bit a unit byte, any other a
thermocouple byte (notes/assumptions/10.md). -/
def tableWire (nbits w : Nat) : Wire :=
  if 8 < nbits then .frame (wordBytes w)
  else
    let b : Byte := BitVec.ofNat 8 w
    if b.extractLsb' 2 6 = 0 then .command (b.extractLsb' 0 2)
    else if testBit b .valid || testBit b .invalid then .flagByte b
    else if b.getLsbD 7 then .unitByte b
    else .tcByte b

/-- The instruction the decoder reads from the bits of a row of the opcode table. -/
def decodeTableWord (nbits w : Nat) : Option Instr :=
  match decode (tableWire nbits w) with
  | .ok i => some i
  | .error _ => none

end Sys2Proof
end

