-- ==== Sys2Proof/Machine/MeterTime.lean ====
section
/-! DEFINITION. Functional unit (d), the meter-time splitter and joiner (43_meter_time.md R200 to
R205). -/

namespace Sys2Proof.Machine

/-- `WholeSeconds(d)`; the fraction is not read (R200). -/
def wholeSeconds (d : Duration) : Nat := d.sec.toNat

/-- `SplitTime(total)`: hours, minutes, seconds (R201). -/
def splitTime (total : Nat) : Nat × Nat × Nat :=
  (total / 3600, total % 3600 / 60, total % 3600 % 60)

/-- `PackTime(d)` (R202). -/
def packTime (d : Duration) : Except Err (Byte × Byte × Byte) :=
  let t := splitTime (wholeSeconds d)
  if 255 < t.1 then .error (.range .hours)
  else .ok (BitVec.ofNat 8 t.1, BitVec.ofNat 8 t.2.1, BitVec.ofNat 8 t.2.2)

/-- `JoinTime(hh, mm, ss)` (R203). -/
def joinTime (hh mm ss : Byte) : Nat := hh.toNat * 3600 + mm.toNat * 60 + ss.toNat

/-- The duration decode produces: whole seconds, fraction 0 (R203, R204). -/
def joinDuration (hh mm ss : Byte) : Duration := ⟨BitVec.ofNat 20 (joinTime hh mm ss), 0⟩

end Sys2Proof.Machine
end

