-- ==== Sys2Proof/Machine/Binary64.lean ====
section
/-! DEFINITION. The two binary64 operations of the block: a correctly rounded product by ten and a
correctly rounded quotient by ten, to nearest, ties to even (00_scope.md R16, 42_temperature.md R191,
decision D2). A finite magnitude is handled exactly, as a natural number of units of 2^-1074, the
least subnormal. -/

namespace Sys2Proof.Machine

/-- The integer nearest to `n / d`, ties to the even one, for `d > 0` (R16, R180). -/
def roundEven (n d : Nat) : Nat :=
  let q := n / d
  let r := n % d
  if 2 * r < d then q else if d < 2 * r then q + 1 else if q % 2 = 0 then q else q + 1

/-- How many binary places above 2^-1074 the last kept bit of `n / d` lies (0 below 2^-1021). -/
def ulpShift (n d : Nat) : Nat := Nat.log2 (n * 2 ^ 1074 / d) - 52

/-- The 63 magnitude bits of `fl(n / d)`: exponent and fraction fields together. A value at or above
2^1024 after rounding gives bits at or above `0x7FF0000000000000`. -/
def roundMag (n d : Nat) : Nat :=
  ulpShift n d * 2 ^ 52 + roundEven (n * 2 ^ 1074) (d * 2 ^ ulpShift n d)

/-- The magnitude bits of infinity. -/
def infMag : Nat := 0x7FF0000000000000

/-- The sign bit of a binary64 pattern. -/
def signBit (v : F64) : Bool := v.getLsbD 63

/-- The 63 magnitude bits of a pattern. -/
def magBits (v : F64) : Nat := (v.extractLsb' 0 63).toNat

/-- The magnitude of a finite pattern with magnitude bits `b`, in units of 2^-1074. -/
def magUnits (b : Nat) : Nat :=
  if b / 2 ^ 52 = 0 then b else (2 ^ 52 + b % 2 ^ 52) * 2 ^ (b / 2 ^ 52 - 1)

/-- A pattern from a sign and magnitude bits. -/
def mkF64 (neg : Bool) (mag : Nat) : F64 := BitVec.ofNat 64 (mag + if neg then 2 ^ 63 else 0)

/-- `fl(k / 10)`: the exact rational rounded once; `+0` for `k = 0` (R185). -/
def flTenth (k : Int) : F64 := mkF64 (decide (k < 0)) (roundMag k.natAbs 10)

/-- The magnitude bits of `p = fl(v * 10)` for a finite `v`: the exact product rounded once (R180). -/
def timesTenMag (v : F64) : Nat := roundMag (magUnits (magBits v) * 10) (2 ^ 1074)

end Sys2Proof.Machine
end

