-- ==== Sys2Proof/Machine/Temperature.lean ====
section
/-! DEFINITION. Functional unit (c), the fixed-point temperature packer and unpacker
(42_temperature.md R180 to R191). -/

namespace Sys2Proof.Machine

/-- `TenthsOf(v)` on a finite `v`: `p = fl(v * 10)`, `none` for `Overflow` when `p` is not finite,
else the integer nearest to `p`, ties to even (R180, decision D3). -/
def tenthsOf (v : F64) : Option Int :=
  let p := timesTenMag v
  if infMag ≤ p then none
  else
    let n : Int := roundEven (magUnits p) (2 ^ 1074)
    some (if signBit v then -n else n)

/-- `PackTemp(t)`: the count and the flag byte, or `RangeError(TEMP)` (R181 to R183). -/
def packTemp (t : F64) : Except Err (Int × Byte) :=
  if finiteTemp t then
    match tenthsOf t with
    | some k => if inS16 k then .ok (k, flagByteFor true) else .error (.range .temp)
    | none => .error (.range .temp)
  else .ok (Config.placeholder, flagByteFor false)

/-- `UnpackTemp(k, fl)` (R184 to R187). -/
def unpackTemp (k : Int) (fl : Byte) : F64 :=
  if channelValid fl then flTenth k else Config.quietNaN

end Sys2Proof.Machine
end

