-- ==== Sys2Proof/Machine/Codec.lean ====
section
/-! DEFINITION. Functional unit (e) at level F, the whole-message encoder and decoder
(44_message_codec.md R215 to R225). -/

namespace Sys2Proof.Machine

/-- The frame `Encode` writes from its converted fields (R217): header, padding zero, the two counts
high byte first, the two enum bytes, the two flag bytes, the time bytes, trailer. -/
def messageFrame (k1 : Int) (f1 : Byte) (k2 : Int) (f2 tb ub hh mm ss : Byte) : Frame :=
  #v[Config.hdr0, Config.hdr1, 0x00, 0x00, 0x00,
    hiByte (u16 k1), loByte (u16 k1), hiByte (u16 k2), loByte (u16 k2),
    tb, ub, f1, f2, hh, mm, ss, Config.trl0, Config.trl1]

/-- `Encode(x)` (R215 to R218): the checks in the order ShapeError, TEMP1, TEMP2, TC_CODE, UNIT_CODE,
HOURS; `system_time` is not read. -/
def encodeMessage (x : Observation) : Except Err Frame :=
  match x.channelTemp with
  | [a, b] =>
    match packTemp a with
    | .error _ => .error (.range .temp1)
    | .ok (k1, f1) =>
      match packTemp b with
      | .error _ => .error (.range .temp2)
      | .ok (k2, f2) =>
        match encTcReg x.tc with
        | .error e => .error e
        | .ok tb =>
          match encUnitReg x.units with
          | .error e => .error e
          | .ok ub =>
            match packTime x.meterTime with
            | .error e => .error e
            | .ok (hh, mm, ss) => .ok (messageFrame k1 f1 k2 f2 tb ub hh mm ss)
  | _ => .error .shape

/-- `REC` as the operand of `Encode`: a pair of channels (R226). -/
def observationOf (r : Record) : Observation :=
  ⟨[r.t0, r.t1], r.units, r.tc, r.systemTime, r.meterTime⟩

/-- The record decode makes of the fields of an accepted frame, stamped with `now` (R219, R222). -/
def recordOf (f : FrameFields) (now : Time) : Record where
  t0 := unpackTemp (sext16 f.m1) f.fl1
  t1 := unpackTemp (sext16 f.m2) f.fl2
  units := unitCode f.units
  tc := tcCode f.tc
  systemTime := now
  meterTime := joinDuration f.hh f.mm f.ss

/-- `Decode(F, now)` (R219 to R223). -/
def decodeMessage (F : List Byte) (now : Time) : Except Err Record :=
  match decodeFrame F with
  | .ok f => .ok (recordOf f now)
  | .error e => .error e

end Sys2Proof.Machine
end

