-- ==== Sys2Proof/Machine/State.lean ====
section
/-! DEFINITION. The whole state of the block (10_state.md R30 to R58) as plain data, the reasons a
step can stop, and the state after reset. -/

namespace Sys2Proof.Machine

/-- `FST`, the framer's state; codes 5 to 7 are never written and name nothing (R50). `tryWin` is the
spec's `TRY`. -/
inductive FramerState where
  | idle | scan | lenchk | tryWin | done
  deriving DecidableEq, Repr

/-- `BUF`: the written bytes by strictly rising index. An index that is not listed holds no value
(R54, R57, R58). -/
abbrev Memory := List Host.Cell

/-- MODEL's own: which fields of `REC` have been written since reset (R58). A field not written holds
no value, and no operation reads it. -/
structure RecordSet where
  t0 : Bool
  t1 : Bool
  units : Bool
  tc : Bool
  systemTime : Bool
  meterTime : Bool
  deriving DecidableEq, Repr

/-- MODEL's own: the value a level-F operation returns (notes/assumptions/2.md). -/
inductive Result where
  /-- No level-F operation has returned since reset. -/
  | none
  /-- `Err(e, sub)` (00_scope.md R15). -/
  | error (e : Err)
  | u8 (b : Byte)
  | u16 (h : Half)
  | s16 (k : Int)
  | nibble (n : BitVec 4)
  | bool (b : Bool)
  | frame (F : Frame)
  | unit (u : TemperatureUnit)
  | tc (ty : ThermocoupleType)
  /-- `TenthsOf`: an integer, or `Overflow` as `none` (42_temperature.md R180). -/
  | tenths (k : Option Int)
  /-- `PackTemp`: a count and a flag byte (R181). -/
  | packed (k : Int) (fl : Byte)
  | temp (t : F64)
  | nat (n : Nat)
  | hms (h m s : Nat)
  | timeBytes (hh mm ss : Byte)
  | observation (x : Record)
  /-- `FindHeader`: an index, or `NONE` (45_stream_framer.md R240). -/
  | index (i : Option Nat)
  | stream (out : List Record) (rem : List Byte)
  deriving DecidableEq, Repr

/-- MODEL's own: what the host has presented to the block and the block has not yet taken
(notes/assumptions/1.md). -/
inductive Port where
  | empty
  /-- A command code, in `cmd`, that the next step carries out (R45). -/
  | command
  /-- A word is at the input of the unit that decodes it. -/
  | wire (w : Wire)
  /-- A level-F operation is called with its operands. -/
  | call (i : Instr)
  deriving DecidableEq, Repr

/-- Why a step stops with a fault. Both are outside every state the block can reach. -/
inductive Fault where
  /-- The framer would read `BUF` at or above `LEN`: `MemRead` is defined only below it
  (20_memory.md R72). Raised by the framer's reads. Safe: no rule gives such a read a value. -/
  | beyondLen
  /-- A command is running and `FST` is `IDLE` or `DONE`, where no step applies (45_stream_framer.md
  R256). Raised by the framer's step. Safe: no rule gives such a state a successor. -/
  | noFramerStep
  deriving DecidableEq, Repr

/-- Why a step is refused: the spec gives it no meaning (60_exceptions.md R302). -/
inductive Refusal where
  /-- The instruction has no meaning in this model. Raised by a refused arm of `exec`. Safe. -/
  | notModelled (mnemonic : String)
  /-- `ENCODE` on a field of `REC` that nothing has written (R58, R302, R313). Raised by `ENCODE`.
  Safe: the spec says a model must refuse it, and 93_implementation_defined.md row 27 gives it the
  treatment 'refuse', not 'any value'. -/
  | recordUnwritten
  /-- `DECODE` on a byte of `FRAME` that nothing has written (R58, R302, R314). Raised by `DECODE`.
  Safe: the spec says a model must refuse it, with the same treatment in row 27. -/
  | frameUnwritten
  /-- The framer reads a byte of `BUF` below `LEN` that nothing has written (R58). Raised by the
  framer's reads. Safe: the spec says a model must refuse it. -/
  | bufUnwritten
  deriving DecidableEq, Repr

/-- The whole state: the twelve registers and memories of 10_state.md R30, then the model's own
seven fields. -/
structure State where
  /-- `REC` (R31). -/
  record : Record
  /-- `FRAME` (R37). -/
  frame : Frame
  /-- `BUF` (R54). -/
  buf : Memory
  /-- `LEN` (R49). -/
  len : Nat
  /-- `CUR`, the cursor and this block's program counter (R40). -/
  cur : Nat
  /-- `OUT`, in arrival order (R55). -/
  out : List Record
  /-- `OUTN` (R51). -/
  outn : Nat
  /-- `FST` (R50). -/
  fst : FramerState
  /-- `CMD` (R45). -/
  cmd : BitVec 2
  /-- `STATUS`: bit 0 `busy`, bit 1 `done`, bit 2 `err` (R46). -/
  status : BitVec 3
  /-- `ERR` (R47). -/
  err : BitVec 3
  /-- `ERRSUB` (R48). -/
  errsub : BitVec 3
  /-- MODEL's own: which fields of `REC` have been written since reset (R58). -/
  recordSet : RecordSet
  /-- MODEL's own: bit `i` is 1 when `FRAME[i]` has been written since reset (R58). -/
  frameSet : BitVec 18
  /-- MODEL's own: the remainder of the last `PARSE` is still readable: since it ended the host has
  written neither `BUF` nor `LEN` and no `PARSE` has been issued (R52). -/
  remReadable : Bool
  /-- MODEL's own: the values the host has lined up on the `now` input, next first (R222, R314). -/
  nowIn : List Time
  /-- MODEL's own: how many values have been drawn from `now`; it indexes the free draws (R222). -/
  draws : Nat
  /-- MODEL's own: what the host has presented (notes/assumptions/1.md). -/
  port : Port
  /-- MODEL's own: what the last level-F operation returned (notes/assumptions/2.md). -/
  result : Result
  deriving DecidableEq, Repr

/-- The bits `REC` shows before anything is written; they hold no value for any operation (R57, R58;
notes/assumptions/6.md). -/
def recordZero : Record := ⟨0, 0, 0, 0, 0, ⟨0, 0⟩⟩

/-- No field of `REC` written (R58). -/
def recordSetZero : RecordSet := ⟨false, false, false, false, false, false⟩

/-- The state after reset (R57): control registers 0, `FST = IDLE`, `OUT` empty, `LEN = 0`, and
nothing of `REC`, `FRAME` and `BUF` written. -/
def State.reset : State where
  record := recordZero
  frame := ⟨#[0, 0, 0, 0, 0, 0, 0, 0, 0, 0, 0, 0, 0, 0, 0, 0, 0, 0], rfl⟩
  buf := []
  len := 0
  cur := 0
  out := []
  outn := 0
  fst := .idle
  cmd := 0
  status := 0
  err := 0
  errsub := 0
  recordSet := recordSetZero
  frameSet := 0
  remReadable := false
  nowIn := []
  draws := 0
  port := .empty
  result := .none

end Sys2Proof.Machine
end

