-- ==== Sys2Proof/Machine/Ops.lean ====
section
/-! DEFINITION. The named operations over the state: `BUF` and its reads and writes, the registers,
the start and the end of a command, raising an error (this block's only exception,
60_exceptions.md R286) and leaving it (R288), the `now` input, and the framer's cursor moves. -/

namespace Sys2Proof.Machine

/-! ## `BUF` -/

/-- The byte at an index, `none` where nothing has been written (10_state.md R58). -/
def Memory.read : Memory → Nat → Option Byte
  | [], _ => none
  | (b, v) :: rest, a => if b = a then some v else Memory.read rest a

/-- The memory with one byte written, in the canonical form. -/
def Memory.write : Memory → Nat → Byte → Memory
  | [], a, v => [(a, v)]
  | (b, w) :: rest, a, v =>
    if a < b then (a, v) :: (b, w) :: rest
    else if a = b then (a, v) :: rest
    else (b, w) :: Memory.write rest a v

/-- Every index of the memory is above `a`, and the indices rise strictly. -/
def Memory.risesFrom : Memory → Nat → Bool
  | [], _ => true
  | (b, _) :: rest, a => decide (a ≤ b) && Memory.risesFrom rest (b + 1)

/-- The canonical form of `BUF`: strictly rising indices. No entry can equal what an unlisted index
reads as, since that is no value. -/
def Memory.wf (m : Memory) : Bool := m.risesFrom 0

/-- The bytes at `a`, `a + 1`, …, `a + n - 1`, `none` if one of them holds no value. -/
def Memory.readRange (m : Memory) (a : Nat) : Nat → Option (List Byte)
  | 0 => some []
  | n + 1 =>
    match m.read a, Memory.readRange m (a + 1) n with
    | some b, some bs => some (b :: bs)
    | _, _ => none

/-- The memory with the bytes of a sequence written from index `a` on, first byte at `a`
(20_memory.md R73). -/
def Memory.writeRange (m : Memory) (a : Nat) : List Byte → Memory
  | [] => m
  | v :: vs => Memory.writeRange (m.write a v) (a + 1) vs

/-- What a read of `BUF` by the block gives. -/
inductive ReadOutcome where
  | bytes (bs : List Byte)
  | beyondLen
  | noValue
  deriving DecidableEq, Repr

/-- `MemRead(addr, n)` (R72): defined only below `LEN`; a byte that holds no value gives none
(10_state.md R58). -/
def State.memRead (s : State) (addr n : Nat) : ReadOutcome :=
  if addr + n ≤ s.len then
    match s.buf.readRange addr n with
    | some bs => .bytes bs
    | none => .noValue
  else .beyondLen

/-! ## Registers -/

/-- `STATUS.busy` (R46). -/
def State.busy (s : State) : Bool := statusBusy s.status

/-- `STATUS.done` (R46). -/
def State.isDone (s : State) : Bool := statusDone s.status

/-- `STATUS.err` (R46). -/
def State.isErr (s : State) : Bool := statusErr s.status

/-- All five fields of `REC` written at once (R31, R227). -/
def State.setRecord (s : State) (r : Record) : State :=
  { s with record := r, recordSet := ⟨true, true, true, true, true, true⟩ }

/-- All eighteen bytes of `FRAME` written at once (R37, R226). -/
def State.setFrame (s : State) (F : Frame) : State :=
  { s with frame := F, frameSet := BitVec.allOnes 18 }

/-- MODEL's own: a level-F operation returns (notes/assumptions/2.md). -/
def State.returns (s : State) (r : Result) : State := { s with result := r }

/-- The fields of `REC` that `ENCODE` reads have been written (R58, R313). -/
def State.encodeReady (s : State) : Bool :=
  s.recordSet.t0 && s.recordSet.t1 && s.recordSet.units && s.recordSet.tc && s.recordSet.meterTime

/-- Every byte of `FRAME` has been written (R58, R314). -/
def State.decodeReady (s : State) : Bool := s.frameSet == BitVec.allOnes 18

/-! ## Commands and errors -/

/-- The start of a command: `STATUS` busy, `ERR` and `ERRSUB` cleared (R46 to R48). It is also how an
error is left (60_exceptions.md R288). -/
def State.beginCommand (s : State) : State := { s with status := statusStart, err := 0, errsub := 0 }

/-- The end of a command without an error (R46 to R48, R226, R227). -/
def State.endOk (s : State) : State := { s with status := statusEnd 0, err := 0, errsub := 0 }

/-- `raise E(sub)` at level M: `ERR` and `ERRSUB` take the codes and the command ends with
`STATUS.err = 1`; nothing else changes (R286). -/
def State.raise (s : State) (e : Err) : State :=
  { s with status := statusEnd (errCode e), err := errCode e, errsub := errSubCode e }

/-! ## The `now` input -/

/-- The value the k-th draw from here on takes: what the host has lined up, and past that a free
value (44_message_codec.md R222, decision D8). -/
def State.nowAt (s : State) (k : Nat) : Time := s.nowIn.getD k (Config.freeNow (s.draws + k))

/-- One value drawn from `now` (R222, R247). -/
def State.draw (s : State) : State := { s with nowIn := s.nowIn.tail, draws := s.draws + 1 }

/-! ## The framer's registers -/

/-- `PARSE` start (45_stream_framer.md R249). -/
def State.startParse (s : State) : State :=
  { s.beginCommand with cur := 0, outn := 0, out := [], fst := .scan, remReadable := false }

/-- The framer ends its command: the remainder is `BUF[CUR..LEN)` from now on (R256; 10_state.md R52). -/
def State.endParse (s : State) : State := { s with fst := .done, remReadable := true }.endOk

/-- The framer finds no room for a header: everything left is discarded and the command ends (R250,
R256). -/
def State.discardAll (s : State) : State := { s with cur := s.len }.endParse

/-- The framer steps past one byte and scans on (R251, R255). -/
def State.skipByte (s : State) : State := { s with cur := s.cur + 1, fst := .scan }

/-- The framer stops with a partial frame at the cursor (R252, R256). -/
def State.keepRest (s : State) : State := s.endParse

/-- The framer accepts the window at the cursor (R254). -/
def State.accept (s : State) (x : Record) : State :=
  { s with out := s.out ++ [x], outn := s.outn + 1, cur := s.cur + Config.msgLen, fst := .scan }

/-- The framer is about to decode its window (R253). -/
def State.inTry (s : State) : Bool := s.busy && s.fst == .tryWin

/-! ## Level-F results -/

/-- What a step can answer. -/
abbrev Answer := Host.Outcome State Fault Refusal

/-- A level-F operation returns `r` and touches nothing else (00_scope.md R15). -/
def State.answer (s : State) (r : Result) : Answer := .next (s.returns r)

/-- `Ok(v)` or `Err(e, sub)` as a result (00_scope.md R15). -/
def resultOf {α : Type} (f : α → Result) : Except Err α → Result
  | .ok v => f v
  | .error e => .error e

/-! ## The port -/

/-- The state a fetched operation runs on: nothing at the port any more. The write of `CMD` has already
raised `busy` (10_state.md R45, R46), and a command's meaning starts from an idle block and raises it
itself, so for a command `STATUS` is handed over as idle. -/
def State.clearPort (s : State) : State :=
  { s with port := .empty, status := if s.port = .command ∧ s.busy = true then 0 else s.status }

end Sys2Proof.Machine
end

