-- ==== Sys2Proof/Machine/CodecUnit.lean ====
section
/-! DEFINITION. The operations of functional unit (e), the whole-message codec: the functions
`Encode` and `Decode` and the commands `NOP`, `ENCODE` and `DECODE` (44_message_codec.md;
10_state.md R45 to R48). A command written while the block is busy is ignored (R45). -/

namespace Sys2Proof.Machine

/-- The function `Encode` (R217). -/
def execFnEncode (x : Observation) (s : State) : Answer :=
  s.answer (resultOf .frame (encodeMessage x))

/-- The function `Decode` (R219). -/
def execFnDecode (F : List Byte) (now : Time) (s : State) : Answer :=
  s.answer (resultOf .observation (decodeMessage F now))

/-- Command `NOP`: no effect at all (R45, decision D27). -/
def execCmdNop (s : State) : Answer := .next s

/-- Command `ENCODE` (R226): `REC` to `FRAME`. R226's effect stands under R313; on a field of `REC` that
nothing has written since reset the spec has the run refused (10_state.md R58, 60_exceptions.md R302,
93_implementation_defined.md row 27, 95_test_vectors.md RS3). -/
def execCmdEncode (s : State) : Answer :=
  if s.busy then .next s
  else if s.encodeReady then
    match encodeMessage (observationOf s.record) with
    | .ok F => .next (s.beginCommand.setFrame F).endOk
    | .error e => .next (s.beginCommand.raise e)
  else .refused .recordUnwritten

/-- Command `DECODE` (R227): `FRAME` to `REC`; `now` is drawn only when the checks pass (R222). R227's
effect stands under R314; on a byte of `FRAME` that nothing has written since reset the spec has the
run refused (R58, R302, 93_implementation_defined.md row 27, 95_test_vectors.md RS4). -/
def execCmdDecode (s : State) : Answer :=
  if s.busy then .next s
  else if s.decodeReady then
    match decodeMessage s.frame.toList (s.nowAt 0) with
    | .ok r => .next (s.beginCommand.draw.setRecord r).endOk
    | .error e => .next (s.beginCommand.raise e)
  else .refused .frameUnwritten

end Sys2Proof.Machine
end

