-- ==== Sys2Proof/Machine/EnumUnit.lean ====
section
/-! DEFINITION. The operations of functional unit (b), the enum encoder and decoder: the `ENUM4` rows,
which are the ten codes its decoders accept, and the four `FUNC` rows (41_enum_codec.md), with the
two `FLAG8` rows, which are the flag bytes the valid test reads (42_temperature.md R183, R186). -/

namespace Sys2Proof.Machine

/-- What `DecUnit` returns on a byte (R162). -/
def unitResult (b : Byte) : Result := resultOf .unit (decUnit b)

/-- What `DecTc` returns on a byte (R165). -/
def tcResult (b : Byte) : Result := resultOf .tc (decTc b)

/-- `UNIT.C` (R160). -/
def execUnitC (high : BitVec 4) (s : State) : Answer :=
  s.answer (unitResult (unitByteOf high .celsius))

/-- `UNIT.F` (R160). -/
def execUnitF (high : BitVec 4) (s : State) : Answer :=
  s.answer (unitResult (unitByteOf high .fahrenheit))

/-- `UNIT.K` (R160). -/
def execUnitK (high : BitVec 4) (s : State) : Answer :=
  s.answer (unitResult (unitByteOf high .kelvin))

/-- `TC.K` (R161). -/
def execTcK (high : BitVec 4) (s : State) : Answer := s.answer (tcResult (tcByteOf high .k))

/-- `TC.J` (R161). -/
def execTcJ (high : BitVec 4) (s : State) : Answer := s.answer (tcResult (tcByteOf high .j))

/-- `TC.T` (R161). -/
def execTcT (high : BitVec 4) (s : State) : Answer := s.answer (tcResult (tcByteOf high .t))

/-- `TC.E` (R161). -/
def execTcE (high : BitVec 4) (s : State) : Answer := s.answer (tcResult (tcByteOf high .e))

/-- `TC.R` (R161). -/
def execTcR (high : BitVec 4) (s : State) : Answer := s.answer (tcResult (tcByteOf high .r))

/-- `TC.S` (R161). -/
def execTcS (high : BitVec 4) (s : State) : Answer := s.answer (tcResult (tcByteOf high .s))

/-- `TC.N` (R161). -/
def execTcN (high : BitVec 4) (s : State) : Answer := s.answer (tcResult (tcByteOf high .n))

/-- `FLAG.VALID`: the channel is valid (R186). -/
def execFlagValid (high : BitVec 4) (low : BitVec 3) (s : State) : Answer :=
  s.answer (.bool (channelValid (flagValidByte high low)))

/-- `FLAG.INVALID`: the channel is not valid; the invalid bit itself is not read (R186, R187). -/
def execFlagInvalid (b7 : BitVec 1) (mid : BitVec 2) (low : BitVec 3) (s : State) : Answer :=
  s.answer (.bool (channelValid (flagInvalidByte b7 mid low)))

/-- `DecUnit` (R162). -/
def execDecUnit (b : Byte) (s : State) : Answer := s.answer (unitResult b)

/-- `EncTc` (R163). -/
def execEncTc (ty : ThermocoupleType) (s : State) : Answer := s.answer (.u8 (encTc ty))

/-- `EncUnit` (R164). -/
def execEncUnit (u : TemperatureUnit) (s : State) : Answer := s.answer (.u8 (encUnit u))

/-- `DecTc` (R165). -/
def execDecTc (b : Byte) (s : State) : Answer := s.answer (tcResult b)

end Sys2Proof.Machine
end

