-- ==== Sys2Proof/Machine/FieldUnit.lean ====
section
/-! DEFINITION. The operations of functional unit (a), the field extractor and inserter: the `FUNC`
rows of 40_field_primitives.md. Each is a pure function of its operands; its value is the model's
`result` (notes/assumptions/2.md). -/

namespace Sys2Proof.Machine

/-- `GetU8` (R141). -/
def execGetU8 (F : Frame) (o : Fin 18) (s : State) : Answer := s.answer (.u8 (getU8 F o))

/-- `GetU16BE` (R142). -/
def execGetU16BE (F : Frame) (o : Fin 17) (s : State) : Answer := s.answer (.u16 (getU16BE F o))

/-- `GetU16LE` (R143). -/
def execGetU16LE (F : Frame) (o : Fin 17) (s : State) : Answer := s.answer (.u16 (getU16LE F o))

/-- `GetS16BE` (R144). -/
def execGetS16BE (F : Frame) (o : Fin 17) (s : State) : Answer := s.answer (.s16 (getS16BE F o))

/-- `PutU8` (R145). -/
def execPutU8 (F : Frame) (o : Fin 18) (v : Byte) (s : State) : Answer :=
  s.answer (.frame (putU8 F o v))

/-- `PutS16BE` (R146). -/
def execPutS16BE (F : Frame) (o : Fin 17) (k : Int) (s : State) : Answer :=
  s.answer (.frame (putS16BE F o (countOperand k)))

/-- `PutS16LE` (R147). -/
def execPutS16LE (F : Frame) (o : Fin 17) (k : Int) (s : State) : Answer :=
  s.answer (.frame (putS16LE F o (countOperand k)))

/-- `LowNibble` (R148). -/
def execLowNibble (b : Byte) (s : State) : Answer := s.answer (.nibble (lowNibble b))

/-- `TestBit` (R149). -/
def execTestBit (b : Byte) (m : FlagMask) (s : State) : Answer := s.answer (.bool (testBit b m))

/-- `Eq2` (R150). -/
def execEq2 (S : List Byte) (i : Nat) (c0 c1 : Byte) (s : State) : Answer :=
  s.answer (.bool (byteOperand S i == c0 && byteOperand S (i + 1) == c1))

end Sys2Proof.Machine
end

