-- ==== Sys2Proof/Machine/Stream.lean ====
section
/-! DEFINITION. Functional unit (f) at level F, the stream framing engine as a function
(45_stream_framer.md R240 to R248). -/

namespace Sys2Proof.Machine

/-- The first header in a byte sequence whose first byte has index `i` (R240). -/
def headerFrom : List Byte → Nat → Option Nat
  | a :: b :: rest, i =>
    if a = Config.hdr0 ∧ b = Config.hdr1 then some i else headerFrom (b :: rest) (i + 1)
  | _, _ => none

/-- `FindHeader(B, c)` (R240). -/
def findHeader (B : List Byte) (c : Nat) : Option Nat := headerFrom (B.drop c) c

/-- The loop of `ParseStream` from the cursor `cur` with the observations `out` so far (R242). Its
first argument bounds the number of iterations; `|B| + 1` is enough, since each iteration that does
not return raises the cursor by at least one (R257). The k-th success uses the k-th value of
`now`. -/
def parseLoop (B : List Byte) (now : Nat → Time) : Nat → Nat → List Record → List Record × List Byte
  | 0, _, out => (out, [])
  | fuel + 1, cur, out =>
    match findHeader B cur with
    | none => (out, [])
    | some p =>
      if B.length - p < Config.msgLen then (out, B.drop p)
      else
        match decodeMessage ((B.drop p).take Config.msgLen) (now out.length) with
        | .ok x => parseLoop B now fuel (p + Config.msgLen) (out ++ [x])
        | .error _ => parseLoop B now fuel (p + 1) out

/-- The current times a supply gives: its k-th value, and past its end a free one (R241, R247;
notes/assumptions/16.md). -/
def timesOf (B : List Byte) (nows : List Time) (k : Nat) : Time :=
  nows.getD k (Config.freeTime B nows k)

/-- `ParseStream(B, nows)` (R241, R242). -/
def parseStream (B : List Byte) (now : Nat → Time) : List Record × List Byte :=
  parseLoop B now (B.length + 1) 0 []

end Sys2Proof.Machine
end

