-- ==== Sys2Proof/Machine/FramerUnit.lean ====
section
/-! DEFINITION. The operations of functional unit (f), the stream framing engine: the functions
`FindHeader` and `ParseStream`, the command `PARSE`, the frame the framer takes at its cursor, the
steps of its state machine (45_stream_framer.md R240 to R256), and where each step's instruction
comes from. -/

namespace Sys2Proof.Machine

/-- `FindHeader` (R240); past the end of the sequence there is no such index, hence `NONE`. -/
def execFindHeader (B : List Byte) (c : Nat) (s : State) : Answer :=
  s.answer (.index (findHeader B c))

/-- `ParseStream`, which never fails (R241, R242); the k-th success uses the k-th value of `nows`. -/
def execParseStream (B : List Byte) (nows : List Time) (s : State) : Answer :=
  s.answer (.stream (parseStream B (timesOf B nows)).1 (parseStream B (timesOf B nows)).2)

/-- Command `PARSE` (R249): the framer starts; its steps follow. -/
def execCmdParse (s : State) : Answer :=
  if s.busy then .next s else .next s.startParse

/-- `FRAME18`: an accepted frame. As the window of a framer in `TRY` it is appended to `OUT` and the
cursor moves past it (R253, R254); presented to the decoder by itself it is what the function
`Decode` returns on it (44_message_codec.md R219). Either way one value of `now` is drawn (R222). -/
def execFrame18 (f : FrameFields) (s : State) : Answer :=
  if s.inTry then .next (s.draw.accept (recordOf f (s.nowAt 0)))
  else s.draw.answer (.observation (recordOf f (s.nowAt 0)))

/-- `SCAN` (R250, R251). -/
def scanStep (s : State) : Answer :=
  if s.len < s.cur + 2 then .next s.discardAll
  else
    match s.memRead s.cur 2 with
    | .bytes bs =>
      if eq2 bs 0 Config.hdr0 Config.hdr1 then .next { s with fst := .lenchk } else .next s.skipByte
    | .beyondLen => .fault .beyondLen
    | .noValue => .refused .bufUnwritten

/-- `LENCHK` (R252). -/
def lenchkStep (s : State) : Answer :=
  if Config.msgLen ≤ s.len - s.cur then .next { s with fst := .tryWin } else .next s.keepRest

/-- What the next step is made of: an instruction to run on a state, or an answer that needs none. -/
inductive Fetched where
  | run (i : Instr) (s : State)
  | answer (a : Answer)

/-- `TRY` (R253, R255): the window at the cursor is decoded; an accepted frame is the instruction to
run, a failure is absorbed and moves the cursor by one. -/
def fetchWindow (s : State) : Fetched :=
  match s.memRead s.cur Config.msgLen with
  | .bytes w =>
    match decode (.frame w) with
    | .ok i => .run i s
    | .error _ => .answer (.next s.skipByte)
  | .beyondLen => .answer (.fault .beyondLen)
  | .noValue => .answer (.refused .bufUnwritten)

/-- One step of a running framer, chosen by `FST` (R249 to R256). -/
def fetchFramer (s : State) : Fetched :=
  match s.fst with
  | .scan => .answer (scanStep s)
  | .lenchk => .answer (lenchkStep s)
  | .tryWin => fetchWindow s
  | .idle => .answer (.fault .noFramerStep)
  | .done => .answer (.fault .noFramerStep)

/-- What is presented at the port, decoded. -/
def decodePort (s : State) : Option (Except DecodeError Instr) :=
  match s.port with
  | .empty => none
  | .command => some (decode (.command s.cmd))
  | .wire w => some (decode w)
  | .call i => some (.ok i)

/-- The result of a word that names no operation: the codec's error at level F (00_scope.md R15), or,
for a flag byte with neither flag bit, a channel that is not valid (42_temperature.md R186, R187). -/
def rejectedResult : DecodeError → Result
  | .codec e => .error e
  | .noFlag => .bool false

/-- Where the next step comes from: what the host has presented; else the running framer; else
nothing, and an idle block does nothing (70_reset_and_hazards.md R312). -/
def fetch (s : State) : Fetched :=
  match decodePort s with
  | some (.ok i) => .run i s.clearPort
  | some (.error e) => .answer (s.clearPort.answer (rejectedResult e))
  | none => if s.busy then fetchFramer s else .answer (.next s)

/-- A word placed where the next step fetches: a command code in `CMD`, another one-byte word at the
port, a frame in `BUF` at the cursor of a framer in `TRY`. -/
def State.placeWire (s : State) : Wire → State
  | .command c => { s with cmd := c, port := .command }
  | .frame F =>
    { s with
      buf := s.buf.writeRange s.cur F
      len := s.cur + F.length
      fst := .tryWin
      status := statusStart
      port := .empty }
  | w => { s with port := .wire w }

end Sys2Proof.Machine
end

