-- ==== Sys2Proof/Machine/ValueUnit.lean ====
section
/-! DEFINITION. The operations of functional units (c) and (d), the temperature packer and the
meter-time splitter: the `FUNC` rows of 42_temperature.md and 43_meter_time.md. -/

namespace Sys2Proof.Machine

/-- `TenthsOf` (R180). -/
def execTenthsOf (v : F64) (s : State) : Answer :=
  s.answer (.tenths (if finiteTemp v then tenthsOf v else Config.freeTenths v))

/-- `PackTemp` (R181). -/
def execPackTemp (t : F64) (s : State) : Answer :=
  s.answer (resultOf (fun p => .packed p.1 p.2) (packTemp t))

/-- `UnpackTemp` (R184). -/
def execUnpackTemp (k : Int) (fl : Byte) (s : State) : Answer :=
  s.answer (.temp (unpackTemp (countOperand k) fl))

/-- `WholeSeconds` (R200). -/
def execWholeSeconds (d : Duration) (s : State) : Answer := s.answer (.nat (wholeSeconds d))

/-- `SplitTime` (R201). -/
def execSplitTime (total : Nat) (s : State) : Answer :=
  s.answer (.hms (splitTime total).1 (splitTime total).2.1 (splitTime total).2.2)

/-- `PackTime` (R202). -/
def execPackTime (d : Duration) (s : State) : Answer :=
  s.answer (resultOf (fun t => .timeBytes t.1 t.2.1 t.2.2) (packTime d))

/-- `JoinTime` (R203). -/
def execJoinTime (hh mm ss : Byte) (s : State) : Answer := s.answer (.nat (joinTime hh mm ss))

end Sys2Proof.Machine
end

