-- ==== Sys2Proof/Machine/Dispatch.lean ====
section
/-! DEFINITION. The meaning of every operation of the block, one arm per row of
spec/opcode_table.json. -/

namespace Sys2Proof.Machine

def exec (i : Instr) (s : State) : Host.Outcome State Fault Refusal :=
  match i with
  | .frame18 f => Sys2Proof.Machine.execFrame18 f s
  | .unitC high => Sys2Proof.Machine.execUnitC high s
  | .unitF high => Sys2Proof.Machine.execUnitF high s
  | .unitK high => Sys2Proof.Machine.execUnitK high s
  | .tcK high => Sys2Proof.Machine.execTcK high s
  | .tcJ high => Sys2Proof.Machine.execTcJ high s
  | .tcT high => Sys2Proof.Machine.execTcT high s
  | .tcE high => Sys2Proof.Machine.execTcE high s
  | .tcR high => Sys2Proof.Machine.execTcR high s
  | .tcS high => Sys2Proof.Machine.execTcS high s
  | .tcN high => Sys2Proof.Machine.execTcN high s
  | .flagValid high low => Sys2Proof.Machine.execFlagValid high low s
  | .flagInvalid b7 mid low => Sys2Proof.Machine.execFlagInvalid b7 mid low s
  | .cmdNop => Sys2Proof.Machine.execCmdNop s
  | .cmdEncode => Sys2Proof.Machine.execCmdEncode s
  | .cmdDecode => Sys2Proof.Machine.execCmdDecode s
  | .cmdParse => Sys2Proof.Machine.execCmdParse s
  | .getU8 F o => Sys2Proof.Machine.execGetU8 F o s
  | .getU16BE F o => Sys2Proof.Machine.execGetU16BE F o s
  | .getU16LE F o => Sys2Proof.Machine.execGetU16LE F o s
  | .getS16BE F o => Sys2Proof.Machine.execGetS16BE F o s
  | .putU8 F o v => Sys2Proof.Machine.execPutU8 F o v s
  | .putS16BE F o k => Sys2Proof.Machine.execPutS16BE F o k s
  | .putS16LE F o k => Sys2Proof.Machine.execPutS16LE F o k s
  | .lowNibble b => Sys2Proof.Machine.execLowNibble b s
  | .testBit b m => Sys2Proof.Machine.execTestBit b m s
  | .eq2 S idx c0 c1 => Sys2Proof.Machine.execEq2 S idx c0 c1 s
  | .decUnit b => Sys2Proof.Machine.execDecUnit b s
  | .encTc tc => Sys2Proof.Machine.execEncTc tc s
  | .encUnit u => Sys2Proof.Machine.execEncUnit u s
  | .decTc b => Sys2Proof.Machine.execDecTc b s
  | .tenthsOf v => Sys2Proof.Machine.execTenthsOf v s
  | .packTemp t => Sys2Proof.Machine.execPackTemp t s
  | .unpackTemp k fl => Sys2Proof.Machine.execUnpackTemp k fl s
  | .wholeSeconds d => Sys2Proof.Machine.execWholeSeconds d s
  | .splitTime total => Sys2Proof.Machine.execSplitTime total s
  | .packTime d => Sys2Proof.Machine.execPackTime d s
  | .joinTime hh mm ss => Sys2Proof.Machine.execJoinTime hh mm ss s
  | .fnEncode x => Sys2Proof.Machine.execFnEncode x s
  | .fnDecode F now => Sys2Proof.Machine.execFnDecode F now s
  | .findHeader B c => Sys2Proof.Machine.execFindHeader B c s
  | .parseStream B nows => Sys2Proof.Machine.execParseStream B nows s

end Sys2Proof.Machine
end

