-- ==== Sys2Proof/Machine/Step.lean ====
section
/-! DEFINITION. One step of the block, and a word placed where the step fetches its next
instruction. -/

namespace Sys2Proof.Machine

/-- One step: fetch, and run what was fetched (45_stream_framer.md R249 to R256;
70_reset_and_hazards.md R312). -/
def step (s : State) : Host.Outcome State Fault Refusal :=
  match fetch s with
  | .run i t => exec i t
  | .answer a => a

/-- The state with the word of `nbits` bits of value `w` where the next step fetches its
instruction. -/
def State.withFetchWord (s : State) (nbits w : Nat) : State := s.placeWire (tableWire nbits w)

end Sys2Proof.Machine
end

