-- ==== Sys2Proof/Machine/HostPort.lean ====
section
/-! DEFINITION. What the host does to the block between steps: the reset input, the writes of the
inputs and of `CMD`, the values on `now`, and the reads of the results (00_scope.md R19;
20_memory.md R73, R82; 70_reset_and_hazards.md R310 to R319). A write made while the block is busy
is ignored (R82). -/

namespace Sys2Proof.Machine

/-- The reset input: the reset state, whatever the block was doing (R310, R311). The values on `now`
and the count of draws are the environment's and stay. -/
def State.hostReset (s : State) : State := { State.reset with nowIn := s.nowIn, draws := s.draws }

/-- A host write, which takes effect only while the block is idle (R82). -/
def State.whenIdle (s : State) (t : State) : State := if s.busy then s else t

/-- `n` bytes fit a buffer of this capacity (00_scope.md R8). -/
def fitsIn (cap : Config.BufCap) (n : Nat) : Bool :=
  match cap with
  | .unbounded => true
  | .bytes above18 => decide (n ≤ 18 + above18)

/-- `n` is within `BUF_CAP` (R49, R73). -/
def withinCap (n : Nat) : Bool := fitsIn Config.bufCap n

/-- `MemWrite(addr, n, v)` of the host, ignored as a whole when it is not allowed (R73); the remainder
of the last `PARSE` is no longer readable (10_state.md R52), also after a write of no bytes (DESIGN
CHOICE, notes/assumptions/19.md). -/
def State.memWrite (addr : Nat) (v : List Byte) (s : State) : State :=
  s.whenIdle
    (if withinCap (addr + v.length) then
      { s with buf := s.buf.writeRange addr v, remReadable := false }
    else s)

/-- The host's write of `LEN`; a value above `BUF_CAP` is ignored (10_state.md R49), and after a write
the remainder of the last `PARSE` is no longer readable (R52). -/
def State.writeLen (n : Nat) (s : State) : State :=
  s.whenIdle (if withinCap n then { s with len := n, remReadable := false } else s)

/-- The operation of a code of `CMD` starts (10_state.md R45, R46; 45_stream_framer.md R249): `busy`
rises and `done`, `err`, `ERR`, `ERRSUB` are cleared at once. For `PARSE` the framer's registers are
set with them, so that the next step is one of R250 to R255; `ENCODE` and `DECODE` stand at the port for
the one step that carries them out. Code 0 starts nothing. -/
def State.startCommand (c : BitVec 2) (s : State) : State :=
  if c = 0 then s
  else if c = 3 then { s.startParse with cmd := c, port := .empty }
  else { s.beginCommand with cmd := c, port := .command }

/-- The host's write of `CMD` (10_state.md R45): it starts the operation of its code, a write of 0 does
nothing at all, and a write to a busy block is ignored. -/
def State.writeCmd (c : BitVec 2) (s : State) : State := s.whenIdle (s.startCommand c)

/-- One field of `REC` as the host writes it (10_state.md R30, R31). -/
inductive RecordWrite where
  | t0 (v : F64)
  | t1 (v : F64)
  | units (c : BitVec 2)
  | tc (c : BitVec 3)
  | systemTime (n : Time)
  | meterTime (d : Duration)
  deriving DecidableEq, Repr

/-- The record and its written marks after a host write of one field (R31, R58). -/
def State.putField (s : State) : RecordWrite → State
  | .t0 v => { s with record := { s.record with t0 := v }, recordSet := { s.recordSet with t0 := true } }
  | .t1 v => { s with record := { s.record with t1 := v }, recordSet := { s.recordSet with t1 := true } }
  | .units c =>
    { s with record := { s.record with units := c }, recordSet := { s.recordSet with units := true } }
  | .tc c => { s with record := { s.record with tc := c }, recordSet := { s.recordSet with tc := true } }
  | .systemTime n =>
    { s with
      record := { s.record with systemTime := n }
      recordSet := { s.recordSet with systemTime := true } }
  | .meterTime d =>
    { s with
      record := { s.record with meterTime := d }
      recordSet := { s.recordSet with meterTime := true } }

/-- The host's write of one field of `REC` (R30, R82). -/
def State.writeField (w : RecordWrite) (s : State) : State := s.whenIdle (s.putField w)

/-- The host's write of one byte of `FRAME` (10_state.md R30, R37; R82). -/
def State.writeFrameByte (o : Fin 18) (b : Byte) (s : State) : State :=
  s.whenIdle
    { s with frame := s.frame.set o b, frameSet := s.frameSet ||| BitVec.twoPow 18 o.val }

/-- The values the host puts on the `now` input, next first (44_message_codec.md R222;
30_encoding.md R124). -/
def State.holdNow (nows : List Time) (s : State) : State := { s with nowIn := nows }

/-- A word put to the unit that decodes it; the unit of a command code is `CMD`
(notes/assumptions/1.md). -/
def State.presentWire (w : Wire) (s : State) : State :=
  match w with
  | .command c => s.writeCmd c
  | w => s.whenIdle { s with port := .wire w }

/-- A row of format `FUNC`, which has no word, called with its operands (notes/assumptions/1.md). -/
def State.callFunction (i : Instr) (s : State) : State :=
  s.whenIdle (if (encode i).isNone then { s with port := .call i } else s)

/-! ## Reads. A read gives `none` where the spec gives no value: while the block is busy (R82), and
outside the valid data (20_memory.md R88). -/

/-- A value the host reads while the block is idle (R82). -/
def State.readIdle {α : Type} (s : State) (v : Option α) : Option α := if s.busy then none else v

/-- `BUF[i]` for `i < LEN` (R88). -/
def State.readBuf (s : State) (i : Nat) : Option Byte :=
  s.readIdle (if i < s.len then s.buf.read i else none)

/-- `OUT[j]` for `j < OUTN` (R88). -/
def State.readOut (s : State) (j : Nat) : Option Record :=
  s.readIdle (if j < s.outn then s.out[j]? else none)

/-- `FRAME[o]` (R88). -/
def State.readFrame (s : State) (o : Fin 18) : Option Byte :=
  s.readIdle (if s.frameSet.getLsbD o.val then some s.frame[o] else none)

/-- A field of `REC` (R88): the field named by a mark and read by a projection. -/
def State.readField {α : Type} (s : State) (mark : RecordSet → Bool) (get : Record → α) : Option α :=
  s.readIdle (if mark s.recordSet then some (get s.record) else none)

/-- `STATUS`, readable at all times: the host waits for `done` on it (R46, R316). -/
def State.readStatus (s : State) : BitVec 3 := s.status

/-- `ERR` and `ERRSUB` (R47, R48). -/
def State.readErr (s : State) : Option (BitVec 3 × BitVec 3) := s.readIdle (some (s.err, s.errsub))

/-- The 3-bit code of `FST` (10_state.md R50). -/
def fstCode : FramerState → BitVec 3
  | .idle => 0
  | .scan => 1
  | .lenchk => 2
  | .tryWin => 3
  | .done => 4

/-- `FST`, `CUR`, `OUTN` and `LEN`, meaningful to the host while the block is idle (R299). -/
def State.readFramer (s : State) : Option (BitVec 3 × Nat × Nat × Nat) :=
  s.readIdle (some (fstCode s.fst, s.cur, s.outn, s.len))

/-- `REM`, defined when `FST = DONE` as `BUF[CUR..LEN)`, until the host next writes `BUF` or `LEN` or
issues `PARSE` (10_state.md R52). -/
def State.remainder (s : State) : Option (List Byte) :=
  s.readIdle
    (if s.fst = .done ∧ s.remReadable = true then s.buf.readRange s.cur (s.len - s.cur) else none)

end Sys2Proof.Machine
end

