-- ==== Sys2Proof/Machine/Script.lean ====
section
/-! DEFINITION. The script notation of the spec's programs and its two pseudo-commands
(30_encoding.md R124, R125), as host actions and steps. -/

namespace Sys2Proof.Machine

/-- `SETREC`: the host writes the fields of `REC` that `ENCODE` reads (R124). -/
def State.setRec (t0 t1 : F64) (units : BitVec 2) (tc : BitVec 3) (mt : Duration) (s : State) : State :=
  ((((s.writeField (.t0 t0)).writeField (.t1 t1)).writeField (.units units)).writeField
    (.tc tc)).writeField (.meterTime mt)

/-- `SETFRAME`: the host writes all of `FRAME` (R124). -/
def State.setFrameAll (F : Frame) (s : State) : State := s.whenIdle (s.setFrame F)

/-- `LOADBUF`: the host writes the bytes to `BUF[0..n)` and `LEN <- n` (R124). -/
def State.loadBuf (bs : List Byte) (s : State) : State :=
  (s.memWrite 0 bs).writeLen bs.length

/-- The remainder a feed puts in front of its chunk: empty after reset, else `REM` (R125, R317). It is
`none`, and the feed has no meaning, where `REM` has no value: the block is busy (R82), the host has
written `BUF` or `LEN` since the `PARSE` (10_state.md R52), or a byte of `REM` has never been written
(R58; DESIGN CHOICE, notes/assumptions/19.md). -/
def State.carried (s : State) : Option (List Byte) :=
  if s.fst = .idle then s.readIdle (some []) else s.remainder

/-- What a feed makes of the state before its `PARSE` runs: `LOADBUF (REM ++ bytes)` and the write of
`CMD` (R125, R317). -/
def State.startFeed (bs : List Byte) (s : State) : Option State :=
  s.carried.map fun rem => (s.loadBuf (rem ++ bs)).writeCmd 3

/-- Steps until the command has ended, `STATUS.busy` being 0, at most `n` of them (R124, "run to
`done`"). -/
def runCommand : Nat → State → Host.Outcome State Fault Refusal
  | 0, s => .next s
  | n + 1, s =>
    if s.busy then
      match step s with
      | .next t => runCommand n t
      | .fault e => .fault e
      | .refused r => .refused r
    else .next s

/-- A command written and run to `done`: `ENCODE` and `DECODE` take one step, `PARSE` at most
`3 * LEN + 1` (45_stream_framer.md R257). -/
def State.command (c : BitVec 2) (s : State) : Host.Outcome State Fault Refusal :=
  runCommand (3 * s.len + 1) (s.writeCmd c)

/-- `FEED`: `LOADBUF (REM ++ bytes)` and `PARSE`, run to `done` (R124, R125, R317); `none` where there is
no remainder to carry. -/
def State.feed (bs : List Byte) (s : State) : Option (Host.Outcome State Fault Refusal) :=
  s.carried.map fun rem => (s.loadBuf (rem ++ bs)).command 3

/-- `ROUNDTRIP`: `ENCODE` followed by `DECODE` (R125). -/
def State.roundTrip (s : State) : Host.Outcome State Fault Refusal :=
  match s.command 1 with
  | .next t => t.command 2
  | .fault e => .fault e
  | .refused r => .refused r

end Sys2Proof.Machine
end

