-- ==== Sys2Proof/Safety.lean ====
section
/-! DEFINITION. What the claims about the block are made of: the invariant of its states, canonical
frames, and a run of the framer. -/

namespace Sys2Proof.Machine

/-- A temperature that decode can write: the NaN pattern, or `fl(k / 10)` for a signed 16-bit `k`
(42_temperature.md R184, R185). -/
def decodedTemp (t : F64) : Prop := t = Config.quietNaN ∨ ∃ m : Half, t = flTenth (sext16 m)

/-- A record that decode can write: both temperatures as `decodedTemp`, both codes naming a value,
whole seconds in 0..933555 and no fraction (10_state.md R33 to R35; 43_meter_time.md R203, R204). -/
def decodedRecord (r : Record) : Prop :=
  decodedTemp r.t0 ∧ decodedTemp r.t1 ∧ r.units ≠ 0 ∧ r.tc ≠ 0 ∧
    r.meterTime.sec.toNat ≤ 933555 ∧ r.meterTime.frac = 0

/-- `BUF` holds the header constant at `a` and `a + 1`, below `LEN` (45_stream_framer.md R252). -/
def State.headerAt (s : State) (a : Nat) : Prop :=
  a + 2 ≤ s.len ∧ s.buf.read a = some Config.hdr0 ∧ s.buf.read (a + 1) = some Config.hdr1

/-- The pairs of codes `ERR` and `ERRSUB` can hold together (60_exceptions.md R285). -/
def legalErrors (e sub : BitVec 3) : Bool :=
  (e == 0 && sub == 0) || (e == 1 && decide (1 ≤ sub.toNat) && decide (sub.toNat ≤ 4)) ||
    (e == 2 && sub == 0) || (e == 3 && decide (1 ≤ sub.toNat) && decide (sub.toNat ≤ 5)) ||
    (e == 4 && sub == 0)

/-- The values `STATUS` can hold with a given `ERR`: reset, a command running, a command ended
without or with an error (10_state.md R46, R47). -/
def legalStatus (st e : BitVec 3) : Bool :=
  (st == 0 && e == 0) || (st == statusStart && e == 0) || (st == 0b010 && e == 0) ||
    (st == 0b110 && e != 0)

/-- What holds of the framer while it runs (10_state.md R42, R55; 45_stream_framer.md R249 to
R255): the cursor is within the data, each observation has consumed 18 bytes before it, the header
is at the cursor from `LENCHK` on and the whole window is there in `TRY`. -/
def State.framerOk (s : State) : Prop :=
  s.port = .empty ∧ s.cur ≤ s.len ∧ 18 * s.outn ≤ s.cur ∧
    (s.fst = .scan ∨ (s.fst = .lenchk ∧ s.headerAt s.cur) ∨
      (s.fst = .tryWin ∧ s.headerAt s.cur ∧ s.cur + 18 ≤ s.len))

/-- What holds between the write of `CMD` that starts an `ENCODE` or a `DECODE` and the step that carries
it out (10_state.md R45): the framer is at rest. -/
def State.startedOk (s : State) : Prop :=
  s.port = .command ∧ (s.cmd = 1 ∨ s.cmd = 2) ∧ (s.fst = .idle ∨ s.fst = .done)

/-- What holds of the remainder while it is readable (10_state.md R52; 45_stream_framer.md R258): the
command has ended, at most 17 bytes are left, and they begin with the header or there are none. -/
def State.remainderOk (s : State) : Prop :=
  s.fst = .done ∧ s.cur ≤ s.len ∧ s.len < s.cur + 18 ∧ (s.cur = s.len ∨ s.headerAt s.cur)

/-- What `BUF_CAP` bounds (10_state.md R42, R54, R55): `LEN`, the indices of `BUF`, and `OUT`. -/
def State.capOk (s : State) : Prop :=
  withinCap s.len = true ∧ (∀ a v, s.buf.read a = some v → withinCap (a + 1) = true) ∧
    withinCap (18 * s.outn) = true

/-- The invariant: the canonical form of `BUF`; `OUTN` counts `OUT`; every entry of `OUT` is a record
decode can write; legal `STATUS`, `ERR` and `ERRSUB`; while busy the conditions of the framer or of a
command just started, and while idle `FST` is `IDLE` or `DONE`; the remainder's shape; the capacity. -/
def State.Inv (s : State) : Prop :=
  s.buf.wf = true ∧ s.outn = s.out.length ∧ (∀ x ∈ s.out, decodedRecord x) ∧
    legalStatus s.status s.err = true ∧ legalErrors s.err s.errsub = true ∧
    (s.busy = true → s.framerOk ∨ s.startedOk) ∧ (s.busy = false → s.fst = .idle ∨ s.fst = .done) ∧
    (s.remReadable = true → s.remainderOk) ∧ s.capOk

/-- The canonical form of the fields of a frame: what `Encode` makes of what `Decode` makes of it,
when the joined time is below 921600 s (44_message_codec.md R225, 30_encoding.md R119). -/
def canonicalFields (f : FrameFields) : FrameFields :=
  { f with
    pad := 0
    m1 := if channelValid f.fl1 then f.m1 else u16 Config.placeholder
    m2 := if channelValid f.fl2 then f.m2 else u16 Config.placeholder
    tcHigh := 0
    unitHigh := 8
    fl1 := flagByteFor (channelValid f.fl1)
    fl2 := flagByteFor (channelValid f.fl2)
    hh := BitVec.ofNat 8 (splitTime (joinTime f.hh f.mm f.ss)).1
    mm := BitVec.ofNat 8 (splitTime (joinTime f.hh f.mm f.ss)).2.1
    ss := BitVec.ofNat 8 (splitTime (joinTime f.hh f.mm f.ss)).2.2 }

/-- The canonical frames, those `Encode` can produce (30_encoding.md R126). -/
def isCanonical (f : FrameFields) : Bool :=
  f.pad == 0 && f.tcHigh == 0 && f.unitHigh == 8 &&
    (f.fl1 == Config.flagValid || (f.fl1 == Config.flagInvalid && f.m1 == 0x8000)) &&
    (f.fl2 == Config.flagValid || (f.fl2 == Config.flagInvalid && f.m2 == 0x8000)) &&
    decide (f.mm.toNat ≤ 59) && decide (f.ss.toNat ≤ 59)

/-- The bytes `PARSE` works on, `BUF[0..LEN)`, all of them written (10_state.md R58, 20_memory.md
R83). -/
def State.holdsStream (s : State) (B : List Byte) : Prop :=
  s.len = B.length ∧ s.buf.readRange 0 s.len = some B

/-- `n` steps, stopping at the first fault or refusal. -/
def runSteps : Nat → State → Answer
  | 0, s => .next s
  | n + 1, s =>
    match step s with
    | .next t => runSteps n t
    | .fault e => .fault e
    | .refused r => .refused r

/-- The answer of a step is no fault. -/
def notFault (a : Answer) : Prop := ∀ e, a ≠ .fault e

end Sys2Proof.Machine
end

