-- ==== Sys2Proof/Certificates/Slice0/Obligations.lean ====
section
/-! DEFINITION. The statements for the provers. Statements that mention `State.returns`, `result` or
`port` rest on the model's own result register and port (notes/assumptions/1.md and 2.md);
statements that mention `recordSet` or `frameSet` rest on the model's own record of what has been
written (notes/assumptions/6.md); those that mention `remReadable` on its own record of whether the
remainder is still readable (notes/assumptions/19.md). -/

open Sys2Proof Sys2Proof.Machine

/-! ## Encodings -/

/-- For every operation that has a word, the decoder gives the operation back from its word, with
every operand at every value its encoding admits (30_encoding.md R101, R106 to R108, R120). -/
def Obligations.DecodeOfEncodeGivesTheInstruction : Prop :=
  ∀ (i : Instr) (w : Wire), encode i = some w → decode w = .ok i

/-- Every word the decoder accepts is the encoding of the operation it stands for, so that two
different words never stand for one operation and no bit is dropped (30_encoding.md R101, R119). -/
def Obligations.EncodeOfDecodeGivesTheWord : Prop :=
  ∀ (w : Wire) (i : Instr), decode w = .ok i → encode i = some w

/-- Words written out from the spec's tables decode to what they stand for: the source's vector
(95_test_vectors.md S1), one unit byte, one thermocouple byte, two flag bytes, a command code. -/
def Obligations.WrittenOutWordsDecode : Prop :=
  decode (.frame [0x65, 0x14, 0x00, 0x00, 0x00, 0x0B, 0x8E, 0x0B, 0x95, 0x01, 0x83, 0x08, 0x08, 0x00,
      0x02, 0x22, 0x0D, 0x0A]) =
    .ok (.frame18 ⟨0, 2958, 2965, 0, .k, 8, .kelvin, 8, 8, 0, 2, 34⟩) ∧
  decode (.unitByte 0x82) = .ok (.unitF 8) ∧ decode (.tcByte 0xF6) = .ok (.tcS 15) ∧
  decode (.flagByte 0x48) = .ok (.flagValid 4 0) ∧
  decode (.flagByte 0x40) = .ok (.flagInvalid 0 0 0) ∧ decode (.command 3) = .ok .cmdParse

/-- The command port carries `00` NOP, `01` ENCODE, `10` DECODE, `11` PARSE, and there is no illegal
code (30_encoding.md R120, R121). -/
def Obligations.CommandCodesAreAllAssigned : Prop :=
  decode (.command 0b00) = .ok .cmdNop ∧ decode (.command 0b01) = .ok .cmdEncode ∧
  decode (.command 0b10) = .ok .cmdDecode ∧ decode (.command 0b11) = .ok .cmdParse ∧
  ∀ c : BitVec 2, ∃ i, decode (.command c) = .ok i

/-- A frame has the constants of `FRAME18` exactly when its 144-bit value matches under the mask, and
`Decode` accepts it exactly when, in addition, the low nibbles of bytes 9 and 10 are in 1..7 and
1..3 (30_encoding.md R113). -/
def Obligations.FrameMatchAndMask : Prop :=
  ∀ (F : Frame) (now : Time),
    (frameWord F &&& frameMask = frameMatch ↔
      F[0] = 0x65 ∧ F[1] = 0x14 ∧ F[16] = 0x0D ∧ F[17] = 0x0A) ∧
    ((∃ r, decodeMessage F.toList now = .ok r) ↔
      frameWord F &&& frameMask = frameMatch ∧
        1 ≤ F[9].toNat % 16 ∧ F[9].toNat % 16 ≤ 7 ∧ 1 ≤ F[10].toNat % 16 ∧ F[10].toNat % 16 ≤ 3)

/-! ## The enum codec -/

/-- The two enum decoders (41_enum_codec.md R162, R165). -/
def Obligations.EnumDecodersFollowTheCodes : Prop :=
  ∀ b : Byte,
    (b.toNat % 16 = 1 → decUnit b = .ok .celsius ∧ decTc b = .ok .k) ∧
    (b.toNat % 16 = 2 → decUnit b = .ok .fahrenheit ∧ decTc b = .ok .j) ∧
    (b.toNat % 16 = 3 → decUnit b = .ok .kelvin ∧ decTc b = .ok .t) ∧
    (b.toNat % 16 = 4 → decTc b = .ok .e) ∧ (b.toNat % 16 = 5 → decTc b = .ok .r) ∧
    (b.toNat % 16 = 6 → decTc b = .ok .s) ∧ (b.toNat % 16 = 7 → decTc b = .ok .n) ∧
    (b.toNat % 16 = 0 ∨ 4 ≤ b.toNat % 16 → decUnit b = .error (.format .unitEnum)) ∧
    (b.toNat % 16 = 0 ∨ 8 ≤ b.toNat % 16 → decTc b = .error (.format .tcEnum))

/-- The enum round trip, its failure on bytes, and the number of nibbles that decode
(41_enum_codec.md R166). -/
def Obligations.EnumCodesRoundTrip : Prop :=
  (∀ u, decUnit (encUnit u) = .ok u) ∧ (∀ ty, decTc (encTc ty) = .ok ty) ∧
  (∃ u, decUnit 0x03 = .ok u ∧ encUnit u = 0x83) ∧
  (∀ b c : Byte, b.toNat % 16 = c.toNat % 16 → decUnit b = decUnit c ∧ decTc b = decTc c) ∧
  ((List.range 16).filter fun n => (decUnit (BitVec.ofNat 8 n)).toOption.isSome).length = 3 ∧
  ((List.range 16).filter fun n => (decTc (BitVec.ofNat 8 n)).toOption.isSome).length = 7

/-- Each `ENUM4` row returns the value its code names, whatever the high nibble of its byte, and
changes nothing else (R160, R161, R106, R107; the result register is the model's). -/
def Obligations.EnumRowsReturnTheirValue : Prop :=
  ∀ (h : BitVec 4) (s : State),
    exec (.unitC h) s = .next (s.returns (.unit .celsius)) ∧
    exec (.unitF h) s = .next (s.returns (.unit .fahrenheit)) ∧
    exec (.unitK h) s = .next (s.returns (.unit .kelvin)) ∧
    exec (.tcK h) s = .next (s.returns (.tc .k)) ∧ exec (.tcJ h) s = .next (s.returns (.tc .j)) ∧
    exec (.tcT h) s = .next (s.returns (.tc .t)) ∧ exec (.tcE h) s = .next (s.returns (.tc .e)) ∧
    exec (.tcR h) s = .next (s.returns (.tc .r)) ∧ exec (.tcS h) s = .next (s.returns (.tc .s)) ∧
    exec (.tcN h) s = .next (s.returns (.tc .n))

/-- A flag byte with bit 3 set is a valid channel whatever its other bits, and one with bit 6 set and
bit 3 clear is not (42_temperature.md R186, R187; the result register is the model's). -/
def Obligations.FlagRowsTellTheValidity : Prop :=
  ∀ (h : BitVec 4) (l : BitVec 3) (b7 : BitVec 1) (m : BitVec 2) (s : State),
    exec (.flagValid h l) s = .next (s.returns (.bool true)) ∧
    exec (.flagInvalid b7 m l) s = .next (s.returns (.bool false))

/-- `DecUnit`, `DecTc`, `EncTc` and `EncUnit` complete on every operand with the values of R162 to
R165 (the result register is the model's). -/
def Obligations.EnumFunctionsComplete : Prop :=
  ∀ s : State,
    (∀ b, ∃ r, exec (.decUnit b) s = .next (s.returns r) ∧
      (∀ u, decUnit b = .ok u → r = .unit u) ∧ ∀ e, decUnit b = .error e → r = .error e) ∧
    (∀ b, ∃ r, exec (.decTc b) s = .next (s.returns r) ∧
      (∀ ty, decTc b = .ok ty → r = .tc ty) ∧ ∀ e, decTc b = .error e → r = .error e) ∧
    exec (.encTc .k) s = .next (s.returns (.u8 0x01)) ∧
    exec (.encTc .j) s = .next (s.returns (.u8 0x02)) ∧
    exec (.encTc .t) s = .next (s.returns (.u8 0x03)) ∧
    exec (.encTc .e) s = .next (s.returns (.u8 0x04)) ∧
    exec (.encTc .r) s = .next (s.returns (.u8 0x05)) ∧
    exec (.encTc .s) s = .next (s.returns (.u8 0x06)) ∧
    exec (.encTc .n) s = .next (s.returns (.u8 0x07)) ∧
    exec (.encUnit .celsius) s = .next (s.returns (.u8 0x81)) ∧
    exec (.encUnit .fahrenheit) s = .next (s.returns (.u8 0x82)) ∧
    exec (.encUnit .kelvin) s = .next (s.returns (.u8 0x83))

/-! ## The field extractor and inserter -/

/-- The four reads of a frame return the values of R141 to R144 and change nothing else (the result
register is the model's). -/
def Obligations.FieldReadsComplete : Prop :=
  ∀ (F : Frame) (s : State),
    (∀ o : Fin 18, exec (.getU8 F o) s = .next (s.returns (.u8 F[o]))) ∧
    ∀ (o : Nat) (h : o < 17),
      (∃ v : Half, exec (.getU16BE F ⟨o, h⟩) s = .next (s.returns (.u16 v)) ∧
        v.toNat = F[o].toNat * 256 + F[o + 1].toNat) ∧
      (∃ v : Half, exec (.getU16LE F ⟨o, h⟩) s = .next (s.returns (.u16 v)) ∧
        v.toNat = F[o + 1].toNat * 256 + F[o].toNat) ∧
      ∃ k : Int, exec (.getS16BE F ⟨o, h⟩) s = .next (s.returns (.s16 k)) ∧
        k = (if F[o].toNat * 256 + F[o + 1].toNat < 32768 then
          (F[o].toNat * 256 + F[o + 1].toNat : Int)
          else (F[o].toNat * 256 + F[o + 1].toNat : Int) - 65536)

/-- The three writes of a frame return the frame with the written bytes at their offsets and every
other byte as it was, and change nothing else (R145 to R147; the result register is the model's). -/
def Obligations.FieldWritesComplete : Prop :=
  ∀ (F : Frame) (s : State),
    (∀ (o : Fin 18) (v : Byte), ∃ G : Frame, exec (.putU8 F o v) s = .next (s.returns (.frame G)) ∧
      G[o] = v ∧ ∀ j : Fin 18, j ≠ o → G[j] = F[j]) ∧
    ∀ (o : Nat) (h : o < 17) (k : Int), -32768 ≤ k → k ≤ 32767 →
      (∃ G : Frame, exec (.putS16BE F ⟨o, h⟩ k) s = .next (s.returns (.frame G)) ∧
        (G[o].toNat * 256 + G[o + 1].toNat : Int) = (if 0 ≤ k then k else k + 65536) ∧
        ∀ j : Fin 18, j.val ≠ o → j.val ≠ o + 1 → G[j] = F[j]) ∧
      ∃ G : Frame, exec (.putS16LE F ⟨o, h⟩ k) s = .next (s.returns (.frame G)) ∧
        (G[o + 1].toNat * 256 + G[o].toNat : Int) = (if 0 ≤ k then k else k + 65536) ∧
        ∀ j : Fin 18, j.val ≠ o → j.val ≠ o + 1 → G[j] = F[j]

/-- `LowNibble`, `TestBit` and `Eq2` return the values of R148 to R150 and change nothing else (the
result register is the model's). -/
def Obligations.ByteTestsComplete : Prop :=
  ∀ s : State,
    (∀ b, ∃ n : BitVec 4, exec (.lowNibble b) s = .next (s.returns (.nibble n)) ∧
      n.toNat = b.toNat % 16) ∧
    (∀ b, exec (.testBit b .valid) s = .next (s.returns (.bool (b.getLsbD 3))) ∧
      exec (.testBit b .invalid) s = .next (s.returns (.bool (b.getLsbD 6)))) ∧
    ∀ (S : List Byte) (i : Nat) (c0 c1 : Byte) (h : i + 2 ≤ S.length),
      ∃ r : Bool, exec (.eq2 S i c0 c1) s = .next (s.returns (.bool r)) ∧
        (r = true ↔ S[i] = c0 ∧ S[i + 1] = c1)

/-- The law of the two 16-bit field operations: what is put is got back, and putting back what was
got changes nothing (40_field_primitives.md R146). -/
def Obligations.PutThenGetFieldLaws : Prop :=
  ∀ (F : Frame) (o : Fin 17),
    (∀ k : Int, -32768 ≤ k → k ≤ 32767 → getS16BE (putS16BE F o k) o = k) ∧
    putS16BE F o (getS16BE F o) = F

/-! ## The temperature packer -/

/-- `fl` rounds to nearest, ties to even: no finite magnitude is nearer to `n / d` than the one
`roundMag` gives, and at a tie its last bit is 0 (00_scope.md R16). Magnitudes are in units of
2^-1074. -/
def Obligations.RoundingIsToNearestEven : Prop :=
  ∀ n d : Nat, 0 < d → roundMag n d < infMag → ∀ b : Nat, b < infMag →
    |(magUnits (roundMag n d) * d : Int) - (n * 2 ^ 1074 : Int)| ≤
        |(magUnits b * d : Int) - (n * 2 ^ 1074 : Int)| ∧
      (b ≠ roundMag n d →
        |(magUnits (roundMag n d) * d : Int) - (n * 2 ^ 1074 : Int)| =
          |(magUnits b * d : Int) - (n * 2 ^ 1074 : Int)| →
        roundMag n d % 2 = 0)

/-- `TenthsOf` completes on every finite value: `Overflow` exactly when the rounded product is not
finite, else the integer nearest to it, ties to even, with the sign of the value
(42_temperature.md R180; the result register is the model's). -/
def Obligations.TenthsOfCompletes : Prop :=
  ∀ (v : F64) (s : State), finiteTemp v = true →
    ∃ k : Option Int, exec (.tenthsOf v) s = .next (s.returns (.tenths k)) ∧
      (k = none ↔ infMag ≤ timesTenMag v) ∧
      ∀ n : Int, k = some n →
        (signBit v = true → n ≤ 0) ∧ (signBit v = false → 0 ≤ n) ∧
        2 * |(n.natAbs * 2 ^ 1074 : Int) - (magUnits (timesTenMag v) : Int)| ≤ 2 ^ 1074 ∧
        (2 * |(n.natAbs * 2 ^ 1074 : Int) - (magUnits (timesTenMag v) : Int)| = 2 ^ 1074 → n % 2 = 0)

/-- `PackTemp` and `UnpackTemp` complete with the values of R181 to R187 (the result register is the
model's). -/
def Obligations.PackAndUnpackTempComplete : Prop :=
  ∀ s : State,
    (∀ t : F64, finiteTemp t = false →
      exec (.packTemp t) s = .next (s.returns (.packed (-32768) 0x40))) ∧
    (∀ (t : F64) (k : Int), finiteTemp t = true → tenthsOf t = some k → -32768 ≤ k → k ≤ 32767 →
      exec (.packTemp t) s = .next (s.returns (.packed k 0x08))) ∧
    (∀ t : F64, finiteTemp t = true →
      (tenthsOf t = none ∨ ∃ k, tenthsOf t = some k ∧ (k < -32768 ∨ 32767 < k)) →
      exec (.packTemp t) s = .next (s.returns (.error (.range .temp)))) ∧
    ∀ (k : Int) (fl : Byte), -32768 ≤ k → k ≤ 32767 →
      exec (.unpackTemp k fl) s =
        .next (s.returns (.temp (if fl.getLsbD 3 = true then flTenth k else 0x7FF8000000000000)))

/-- The laws of the temperature unit: L1, that a tenth survives the round trip, for `TenthsOf` and
for any integer within one half of the exact product; L2, what comes back of an accepted value; L3,
the placeholder (42_temperature.md R188). -/
def Obligations.TemperatureRoundTripLaws : Prop :=
  (∀ q : Int, -32768 ≤ q → q ≤ 32767 →
    tenthsOf (flTenth q) = some q ∧ packTemp (unpackTemp q 0x08) = .ok (q, 0x08) ∧
    ∀ m : Int, 2 * |(m * 2 ^ 1074 : Int) -
        (if signBit (flTenth q) = true then -1 else 1) * (magUnits (magBits (flTenth q)) * 10 : Int)| ≤
          2 ^ 1074 → m = q) ∧
  (∀ (t : F64) (k : Int) (f : Byte), packTemp t = .ok (k, f) →
    (finiteTemp t = false → unpackTemp k f = 0x7FF8000000000000) ∧
    (finiteTemp t = true → ∃ n, tenthsOf t = some n ∧ unpackTemp k f = flTenth n)) ∧
  (packTemp 0x7FF8000000000000 = .ok (-32768, 0x40) ∧
    unpackTemp (-32768) 0x40 = 0x7FF8000000000000)

/-! ## The meter time -/

/-- `WholeSeconds`, `SplitTime`, `PackTime` and `JoinTime` complete on every operand with the values
of R200 to R203 (the result register is the model's). -/
def Obligations.TimeFunctionsComplete : Prop :=
  ∀ s : State,
    (∀ d : Duration, exec (.wholeSeconds d) s = .next (s.returns (.nat d.sec.toNat))) ∧
    (∀ n : Nat, ∃ h m c, exec (.splitTime n) s = .next (s.returns (.hms h m c)) ∧
      n = h * 3600 + m * 60 + c ∧ m ≤ 59 ∧ c ≤ 59) ∧
    (∀ d : Duration, d.sec.toNat < 921600 → ∃ hh mm ss : Byte,
      exec (.packTime d) s = .next (s.returns (.timeBytes hh mm ss)) ∧
      d.sec.toNat = hh.toNat * 3600 + mm.toNat * 60 + ss.toNat ∧ mm.toNat ≤ 59 ∧ ss.toNat ≤ 59) ∧
    (∀ d : Duration, 921600 ≤ d.sec.toNat →
      exec (.packTime d) s = .next (s.returns (.error (.range .hours)))) ∧
    ∀ hh mm ss : Byte, exec (.joinTime hh mm ss) s =
      .next (s.returns (.nat (hh.toNat * 3600 + mm.toNat * 60 + ss.toNat)))

/-- The laws of the meter time, L1 to L4 (43_meter_time.md R205). -/
def Obligations.MeterTimeLaws : Prop :=
  (∀ h m c : Byte, m.toNat ≤ 59 → c.toNat ≤ 59 → packTime (joinDuration h m c) = .ok (h, m, c)) ∧
  (∀ d : Duration, d.sec.toNat ≤ 921599 → ∃ h m c, packTime d = .ok (h, m, c) ∧
    joinTime h m c = d.sec.toNat) ∧
  (∀ (d : Duration) (h m c : Byte), packTime d = .ok (h, m, c) →
    joinTime h m c = wholeSeconds d ∧ wholeSeconds d = d.sec.toNat) ∧
  (∀ h m c : Byte, 59 < m.toNat ∨ 59 < c.toNat →
    (∃ h' m' c', packTime (joinDuration h m c) = .ok (h', m', c') ∧ (h', m', c') ≠ (h, m, c)) ∨
      packTime (joinDuration h m c) = .error (.range .hours))

/-! ## The whole-message codec -/

/-- `Encode` completes with the frame of R217 on two channels that pack, codes of values of the two
types, and a time below 921600 s; on an operand for which `Encode` has an error it completes with that
error, and every operand is of one of the two kinds (R215 to R218; the result register is the
model's). -/
def Obligations.EncodeFunctionCompletes : Prop :=
  ∀ (x : Observation) (s : State),
    (∀ (a b : F64) (k1 k2 : Int) (f1 f2 hh mm ss : Byte), x.channelTemp = [a, b] →
      packTemp a = .ok (k1, f1) → packTemp b = .ok (k2, f2) → x.tc ≠ 0 → x.units ≠ 0 →
      x.meterTime.sec.toNat = hh.toNat * 3600 + mm.toNat * 60 + ss.toNat →
      mm.toNat ≤ 59 → ss.toNat ≤ 59 →
      exec (.fnEncode x) s = .next (s.returns (.frame
        #v[0x65, 0x14, 0x00, 0x00, 0x00, hiByte (u16 k1), loByte (u16 k1), hiByte (u16 k2),
          loByte (u16 k2), x.tc.setWidth 8, x.units.setWidth 8 ||| 0x80, f1, f2, hh, mm, ss,
          0x0D, 0x0A]))) ∧
    (∀ F, encodeMessage x = .ok F → exec (.fnEncode x) s = .next (s.returns (.frame F))) ∧
    (∀ e, encodeMessage x = .error e → exec (.fnEncode x) s = .next (s.returns (.error e))) ∧
    ((∃ F, encodeMessage x = .ok F) ∨ ∃ e, encodeMessage x = .error e)

/-- The errors of `Encode` in their order: the first that applies is reported and no other
(44_message_codec.md R218). -/
def Obligations.EncodeReportsTheFirstError : Prop :=
  ∀ x : Observation,
    (x.channelTemp.length ≠ 2 → encodeMessage x = .error .shape) ∧
    ∀ a b, x.channelTemp = [a, b] →
      (packTemp a = .error (.range .temp) → encodeMessage x = .error (.range .temp1)) ∧
      ((∃ p, packTemp a = .ok p) →
        (packTemp b = .error (.range .temp) → encodeMessage x = .error (.range .temp2)) ∧
        ((∃ p, packTemp b = .ok p) →
          (x.tc = 0 → encodeMessage x = .error (.range .tcCode)) ∧
          (x.tc ≠ 0 →
            (x.units = 0 → encodeMessage x = .error (.range .unitCode)) ∧
            (x.units ≠ 0 →
              (921600 ≤ x.meterTime.sec.toNat → encodeMessage x = .error (.range .hours)) ∧
              (x.meterTime.sec.toNat < 921600 → ∃ F, encodeMessage x = .ok F)))))

/-- `Decode` completes on every byte sequence: an accepted frame gives the observation of R219, a
sequence for which `Decode` has an error gives that error, and every sequence is of one of the two
kinds (R219 to R222; the result register is the model's). -/
def Obligations.DecodeFunctionCompletes : Prop :=
  ∀ (now : Time) (s : State),
    (∀ (F : Frame) (ty : ThermocoupleType) (u : TemperatureUnit),
      F[0] = 0x65 → F[1] = 0x14 → F[16] = 0x0D → F[17] = 0x0A →
      decTc F[9] = .ok ty → decUnit F[10] = .ok u →
      exec (.fnDecode F.toList now) s = .next (s.returns (.observation
        { t0 := if F[11].getLsbD 3 = true then flTenth (sext16 (F[5] ++ F[6]))
            else 0x7FF8000000000000
          t1 := if F[12].getLsbD 3 = true then flTenth (sext16 (F[7] ++ F[8]))
            else 0x7FF8000000000000
          units := unitCode u
          tc := tcCode ty
          systemTime := now
          meterTime :=
            ⟨BitVec.ofNat 20 (F[13].toNat * 3600 + F[14].toNat * 60 + F[15].toNat), 0⟩ }))) ∧
    ∀ F : List Byte,
      (∀ r, decodeMessage F now = .ok r →
        exec (.fnDecode F now) s = .next (s.returns (.observation r))) ∧
      (∀ e, decodeMessage F now = .error e →
        exec (.fnDecode F now) s = .next (s.returns (.error e))) ∧
      ((∃ r, decodeMessage F now = .ok r) ∨ ∃ e, decodeMessage F now = .error e)

/-- The checks of `Decode`, complete and in their order: LengthError, HEADER, TRAILER, TC_ENUM,
UNIT_ENUM; every other sequence decodes (44_message_codec.md R220, R221). -/
def Obligations.DecodeFailsInExactlyTheseCases : Prop :=
  (∀ (F : List Byte) (now : Time), F.length ≠ 18 → decodeMessage F now = .error .length) ∧
  ∀ (F : Frame) (now : Time),
    (F[0] ≠ 0x65 ∨ F[1] ≠ 0x14 → decodeMessage F.toList now = .error (.format .header)) ∧
    (F[0] = 0x65 ∧ F[1] = 0x14 →
      (F[16] ≠ 0x0D ∨ F[17] ≠ 0x0A → decodeMessage F.toList now = .error (.format .trailer)) ∧
      (F[16] = 0x0D ∧ F[17] = 0x0A →
        (F[9].toNat % 16 = 0 ∨ 8 ≤ F[9].toNat % 16 →
          decodeMessage F.toList now = .error (.format .tcEnum)) ∧
        (1 ≤ F[9].toNat % 16 ∧ F[9].toNat % 16 ≤ 7 →
          (F[10].toNat % 16 = 0 ∨ 4 ≤ F[10].toNat % 16 →
            decodeMessage F.toList now = .error (.format .unitEnum)) ∧
          (1 ≤ F[10].toNat % 16 ∧ F[10].toNat % 16 ≤ 3 →
            ∃ r, decodeMessage F.toList now = .ok r))))

/-- `Decode` after `Encode` (44_message_codec.md R224). -/
def Obligations.DecodeAfterEncode : Prop :=
  ∀ (x : Observation) (F : Frame) (now : Time), encodeMessage x = .ok F →
    ∃ (y : Record) (a b : F64), decodeMessage F.toList now = .ok y ∧ x.channelTemp = [a, b] ∧
      y.units = x.units ∧ y.tc = x.tc ∧ y.meterTime = ⟨x.meterTime.sec, 0⟩ ∧ y.systemTime = now ∧
      (finiteTemp a = false → y.t0 = 0x7FF8000000000000) ∧
      (finiteTemp a = true → ∃ n, tenthsOf a = some n ∧ y.t0 = flTenth n) ∧
      (finiteTemp b = false → y.t1 = 0x7FF8000000000000) ∧
      (finiteTemp b = true → ∃ n, tenthsOf b = some n ∧ y.t1 = flTenth n)

/-- `Encode` after `Decode`: the canonical form of the frame, or RangeError(HOURS) exactly when the
joined time is 921600 s or more; the canonical form is the frame itself exactly on the canonical
frames (44_message_codec.md R225; 30_encoding.md R126). -/
def Obligations.EncodeAfterDecode : Prop :=
  ∀ (f : FrameFields) (now : Time), ∃ y,
    decodeMessage (encodeFrame f).toList now = .ok y ∧
    (joinTime f.hh f.mm f.ss < 921600 →
      encodeMessage (observationOf y) = .ok (encodeFrame (canonicalFields f))) ∧
    (921600 ≤ joinTime f.hh f.mm f.ss →
      encodeMessage (observationOf y) = .error (.range .hours)) ∧
    (canonicalFields f = f ↔ isCanonical f = true)

/-- What the codec does not read: `Encode` neither the system time nor the fraction of a second
(10_state.md R35, R36), `Decode` nothing of `now` but to copy it (44_message_codec.md R222). -/
def Obligations.CodecIgnoresTimeStamps : Prop :=
  (∀ (x : Observation) (n : Time) (k : Fraction),
    encodeMessage { x with systemTime := n, meterTime := { x.meterTime with frac := k } } =
      encodeMessage x) ∧
  ∀ (F : List Byte) (n m : Time) (r : Record), decodeMessage F n = .ok r →
    r.systemTime = n ∧ decodeMessage F m = .ok { r with systemTime := m }

/-! ## The commands -/

/-- `ENCODE` on an idle block whose inputs are written, when the two channels pack, the codes name
values and the time is below 921600 s: `FRAME` takes the frame of R217, `STATUS` is done without
error, `ERR` and `ERRSUB` are 0, and nothing else changes (44_message_codec.md R217, R226). -/
def Obligations.EncodeCommandWritesTheFrame : Prop :=
  ∀ (s : State) (k1 k2 : Int) (f1 f2 hh mm ss : Byte), s.busy = false → s.encodeReady = true →
    packTemp s.record.t0 = .ok (k1, f1) → packTemp s.record.t1 = .ok (k2, f2) →
    s.record.tc ≠ 0 → s.record.units ≠ 0 →
    s.record.meterTime.sec.toNat = hh.toNat * 3600 + mm.toNat * 60 + ss.toNat →
    mm.toNat ≤ 59 → ss.toNat ≤ 59 →
    exec .cmdEncode s = .next { s with
      frame := #v[0x65, 0x14, 0x00, 0x00, 0x00, hiByte (u16 k1), loByte (u16 k1), hiByte (u16 k2),
        loByte (u16 k2), s.record.tc.setWidth 8, s.record.units.setWidth 8 ||| 0x80, f1, f2,
        hh, mm, ss, 0x0D, 0x0A]
      frameSet := BitVec.allOnes 18
      status := 0b010
      err := 0
      errsub := 0 }

/-- `DECODE` on an idle block whose `FRAME` is written and accepted: `REC` takes the observation of
R219 stamped with the value on `now`, which is drawn once, `STATUS` is done without error, `ERR` and
`ERRSUB` are 0, and nothing else changes (44_message_codec.md R219, R222, R227). -/
def Obligations.DecodeCommandWritesTheRecord : Prop :=
  ∀ (s : State) (ty : ThermocoupleType) (u : TemperatureUnit), s.busy = false →
    s.decodeReady = true → s.frame[0] = 0x65 → s.frame[1] = 0x14 → s.frame[16] = 0x0D →
    s.frame[17] = 0x0A → decTc s.frame[9] = .ok ty → decUnit s.frame[10] = .ok u →
    exec .cmdDecode s = .next { s with
      record :=
        { t0 := if s.frame[11].getLsbD 3 = true then flTenth (sext16 (s.frame[5] ++ s.frame[6]))
            else 0x7FF8000000000000
          t1 := if s.frame[12].getLsbD 3 = true then flTenth (sext16 (s.frame[7] ++ s.frame[8]))
            else 0x7FF8000000000000
          units := unitCode u
          tc := tcCode ty
          systemTime := s.nowAt 0
          meterTime := ⟨BitVec.ofNat 20
            (s.frame[13].toNat * 3600 + s.frame[14].toNat * 60 + s.frame[15].toNat), 0⟩ }
      recordSet := ⟨true, true, true, true, true, true⟩
      nowIn := s.nowIn.tail
      draws := s.draws + 1
      status := 0b010
      err := 0
      errsub := 0 }

/-- A command that fails writes none of its outputs: the state is as before but for `STATUS`, `ERR`
and `ERRSUB`, which take the codes of the error of R285 (60_exceptions.md R285, R286;
44_message_codec.md R226, R227). That a failed `DECODE` draws no value of `now` is R222 ("`now` is not
read when `Decode` fails") against R227's "sampled once during the command", which the model settles
by R222 (notes/assumptions/15.md, DEDUCED). -/
def Obligations.FailedCommandChangesOnlyTheErrorRegisters : Prop :=
  ((∀ c, errCode (.format c) = 1) ∧ errCode .shape = 2 ∧ (∀ c, errCode (.range c) = 3) ∧
    errCode .length = 4 ∧
    errSubCode (.format .header) = 1 ∧ errSubCode (.format .trailer) = 2 ∧
    errSubCode (.format .tcEnum) = 3 ∧ errSubCode (.format .unitEnum) = 4 ∧
    errSubCode (.range .temp1) = 1 ∧ errSubCode (.range .temp2) = 2 ∧
    errSubCode (.range .hours) = 3 ∧ errSubCode (.range .tcCode) = 4 ∧
    errSubCode (.range .unitCode) = 5 ∧ errSubCode .shape = 0 ∧ errSubCode .length = 0) ∧
  ∀ s : State, s.busy = false →
    (∀ e, s.encodeReady = true → encodeMessage (observationOf s.record) = .error e →
      exec .cmdEncode s =
        .next { s with status := 0b110, err := errCode e, errsub := errSubCode e }) ∧
    (∀ e, s.decodeReady = true → decodeMessage s.frame.toList (s.nowAt 0) = .error e →
      exec .cmdDecode s =
        .next { s with status := 0b110, err := errCode e, errsub := errSubCode e })

/-- `NOP` changes nothing and a write of 0 to `CMD` does nothing at all; a command that reaches a busy
block is ignored; a write of 1 or 2 to an idle block starts the operation: `busy` rises, `done`,
`err`, `ERR` and `ERRSUB` are cleared (10_state.md R45 to R48; that the code stands at the port until
the next step is the model's, notes/assumptions/1.md). -/
def Obligations.NopAndIgnoredCommands : Prop :=
  ∀ s : State,
    exec .cmdNop s = .next s ∧ s.writeCmd 0 = s ∧
    (s.busy = true → exec .cmdEncode s = .next s ∧ exec .cmdDecode s = .next s ∧
      exec .cmdParse s = .next s ∧ ∀ c, s.writeCmd c = s) ∧
    (s.busy = false → ∀ c : BitVec 2, c = 1 ∨ c = 2 → s.writeCmd c =
      { s with cmd := c, port := .command, status := 0b001, err := 0, errsub := 0 })

/-- `PARSE` on an idle block starts the framer: the cursor, `OUT`, `OUTN`, `ERR` and `ERRSUB` are
cleared, `FST` is `SCAN`, `STATUS` is busy, and nothing else changes; the write of 3 to `CMD` does all
of this at once, and the next step is already one of the framer's (45_stream_framer.md R249; the empty
port and `remReadable` are the model's, notes/assumptions/1.md and 19.md). -/
def Obligations.ParseCommandStartsTheFramer : Prop :=
  ∀ s : State, s.busy = false →
    exec .cmdParse s = .next { s with
      cur := 0, outn := 0, out := [], fst := .scan, err := 0, errsub := 0, status := 0b001,
      remReadable := false } ∧
    s.writeCmd 3 = { s with
      cur := 0, outn := 0, out := [], fst := .scan, err := 0, errsub := 0, status := 0b001,
      remReadable := false, cmd := 3, port := .empty } ∧
    exec .cmdParse { s with cmd := 3, port := .empty } = .next (s.writeCmd 3) ∧
    step (s.writeCmd 3) = scanStep (s.writeCmd 3)

/-- A command that would read a field of `REC`, a byte of `FRAME` or a byte of `BUF` that nothing has
written since reset is refused (10_state.md R58; 60_exceptions.md R302). -/
def Obligations.UnwrittenStateIsRefused : Prop :=
  ∀ s : State,
    (s.busy = false →
      (s.recordSet.t0 = false ∨ s.recordSet.t1 = false ∨ s.recordSet.units = false ∨
        s.recordSet.tc = false ∨ s.recordSet.meterTime = false →
        exec .cmdEncode s = .refused .recordUnwritten) ∧
      (∀ o : Fin 18, s.frameSet.getLsbD o.val = false →
        exec .cmdDecode s = .refused .frameUnwritten)) ∧
    (s.port = .empty → s.busy = true →
      (∀ a, s.fst = .scan → s.cur + 2 ≤ s.len → s.cur ≤ a → a < s.cur + 2 → s.buf.read a = none →
        step s = .refused .bufUnwritten) ∧
      (∀ a, s.fst = .tryWin → s.cur + 18 ≤ s.len → s.cur ≤ a → a < s.cur + 18 →
        s.buf.read a = none → step s = .refused .bufUnwritten))

/-- A level-F operation whose rule states no result for its operands completes all the same, with a
free value in that place and everything else as the rule says (the model's choice,
notes/assumptions/13.md): a wider count is stored or scaled as 16 free bits, a channel that is not
valid is NaN whatever the count, a byte that is there and differs makes `Eq2` false, and no header lies
past the end of a sequence. -/
def Obligations.OutsideTheDomainTheValueIsFree : Prop :=
  ∀ s : State,
    (∀ i : Instr, i.wf = false → ∃ r, exec i s = .next (s.returns r)) ∧
    (∀ (F : Frame) (o : Nat) (h : o < 17) (k : Int), inS16 k = false →
      (∃ G : Frame, exec (.putS16BE F ⟨o, h⟩ k) s = .next (s.returns (.frame G)) ∧
        G[o] ++ G[o + 1] = Config.freeCount k ∧
        ∀ j : Fin 18, j.val ≠ o → j.val ≠ o + 1 → G[j] = F[j]) ∧
      ∃ G : Frame, exec (.putS16LE F ⟨o, h⟩ k) s = .next (s.returns (.frame G)) ∧
        G[o + 1] ++ G[o] = Config.freeCount k ∧
        ∀ j : Fin 18, j.val ≠ o → j.val ≠ o + 1 → G[j] = F[j]) ∧
    (∀ (k : Int) (fl : Byte), inS16 k = false → exec (.unpackTemp k fl) s =
      .next (s.returns (.temp (if fl.getLsbD 3 = true then flTenth (sext16 (Config.freeCount k))
        else 0x7FF8000000000000)))) ∧
    (∀ v : F64, finiteTemp v = false →
      exec (.tenthsOf v) s = .next (s.returns (.tenths (Config.freeTenths v)))) ∧
    (∀ (S : List Byte) (i : Nat) (c0 c1 b : Byte), S.length < i + 2 → S[i]? = some b → b ≠ c0 →
      exec (.eq2 S i c0 c1) s = .next (s.returns (.bool false))) ∧
    ∀ (B : List Byte) (c : Nat), B.length < c →
      exec (.findHeader B c) s = .next (s.returns (.index none))

/-- Which registers the commands leave alone: `ENCODE` all but `FRAME`, `STATUS`, `ERR`, `ERRSUB`;
`DECODE` all but `REC`, `STATUS`, `ERR`, `ERRSUB`; the start of a `PARSE` and every step of a running
framer leave `REC`, `FRAME`, `BUF` and `LEN` alone (10_state.md R38). The model's own fields move
with the registers they describe. -/
def Obligations.CommandsTouchOnlyTheirRegisters : Prop :=
  (∀ s t : State, exec .cmdEncode s = .next t →
    t = { s with frame := t.frame, frameSet := t.frameSet, status := t.status, err := t.err,
                 errsub := t.errsub }) ∧
  (∀ s t : State, exec .cmdDecode s = .next t →
    t = { s with record := t.record, recordSet := t.recordSet, nowIn := t.nowIn, draws := t.draws,
                 status := t.status, err := t.err, errsub := t.errsub }) ∧
  (∀ s t : State, exec .cmdParse s = .next t ∨ (s.port = .empty ∧ step s = .next t) →
    t.record = s.record ∧ t.recordSet = s.recordSet ∧ t.frame = s.frame ∧ t.frameSet = s.frameSet ∧
      t.buf = s.buf ∧ t.len = s.len ∧ t.cmd = s.cmd ∧ t.port = s.port ∧ t.result = s.result)

/-! ## The framer -/

/-- `FindHeader` (45_stream_framer.md R240). -/
def Obligations.FindHeaderFindsTheFirst : Prop :=
  ∀ (B : List Byte) (c : Nat), c ≤ B.length →
    (∀ i, findHeader B c = some i ↔
      c ≤ i ∧ B[i]? = some 0x65 ∧ B[i + 1]? = some 0x14 ∧
        ∀ j, c ≤ j → j < i → ¬ (B[j]? = some 0x65 ∧ B[j + 1]? = some 0x14)) ∧
    (findHeader B c = none ↔ ∀ j, c ≤ j → ¬ (B[j]? = some 0x65 ∧ B[j + 1]? = some 0x14))

/-- `FindHeader` and `ParseStream` complete on every operand with the values of the two functions and
change nothing else; `ParseStream` takes its k-th success's time from the k-th value of its supply, and
past the end of the supply the time is free (R240 to R242, R247; the result register is the model's,
the free time is notes/assumptions/16.md). -/
def Obligations.StreamFunctionsComplete : Prop :=
  ∀ (B : List Byte) (s : State),
    (∀ c, exec (.findHeader B c) s = .next (s.returns (.index (findHeader B c)))) ∧
    ∀ nows : List Time, ∃ out rem, parseStream B (timesOf B nows) = (out, rem) ∧
      exec (.parseStream B nows) s = .next (s.returns (.stream out rem)) ∧
      (∀ k n, nows[k]? = some n → timesOf B nows k = n) ∧
      (out.length ≤ nows.length → parseStream B (fun k => nows.getD k 0) = (out, rem)) ∧
      out.length ≤ B.length / 18

/-- The bound on the iterations of the `ParseStream` loop is never reached: more of them change
nothing (45_stream_framer.md R242, R257). -/
def Obligations.ParseLoopBoundIsEnough : Prop :=
  ∀ (B : List Byte) (now : Nat → Time) (k : Nat),
    parseLoop B now (B.length + 1 + k) 0 [] = parseStream B now

/-- The shape of the results: (a) the remainder has at most 17 bytes; (b) it is empty or begins with
the header; (c) at most `n / 18` observations; (d) their windows are disjoint, in increasing order
and before the remainder, and each observation is the decoding of its window; (e) the remainder is a
suffix (45_stream_framer.md R258). -/
def Obligations.ParseStreamResultShape : Prop :=
  ∀ (B : List Byte) (now : Nat → Time) (out : List Record) (rem : List Byte),
    parseStream B now = (out, rem) →
    rem.length ≤ 17 ∧ (rem = [] ∨ ∃ tail, rem = 0x65 :: 0x14 :: tail) ∧
    out.length ≤ B.length / 18 ∧
    ∃ (ps : List Nat) (q : Nat), q ≤ B.length ∧ rem = B.drop q ∧ ps.length = out.length ∧
      ps.Pairwise (fun p p' => p + 18 ≤ p') ∧
      ∀ (j p : Nat) (x : Record), ps[j]? = some p → out[j]? = some x →
        p + 18 ≤ q ∧ decodeMessage ((B.drop p).take 18) (now j) = .ok x

/-- The source's stated properties of `parse_stream`, for every valid 18-byte message
(45_stream_framer.md R260). -/
def Obligations.ParseStreamStatedProperties : Prop :=
  ∀ now : Nat → Time, parseStream [] now = ([], []) ∧
    ∀ (F G : List Byte) (f g : FrameFields), decodeFrame F = .ok f → decodeFrame G = .ok g →
      parseStream F now = ([recordOf f (now 0)], []) ∧
      parseStream (0x00 :: F) now = ([recordOf f (now 0)], []) ∧
      parseStream (F ++ G) now = ([recordOf f (now 0), recordOf g (now 1)], []) ∧
      ∀ b : Byte, parseStream (F ++ [0x65, 0x14, b]) now =
        ([recordOf f (now 0)], [0x65, 0x14, b])

/-- Splitting the stream: parsing in two calls, with the remainder put in front of the second chunk,
gives what one call gives, unless the first chunk leaves no remainder, ends with `0x65`, and the
second begins with `0x14` (45_stream_framer.md R261). The second call draws the values of `now` that
follow those of the first. -/
def Obligations.SplitStreamGivesTheSameResults : Prop :=
  ∀ (A C : List Byte) (now : Nat → Time) (o1 o2 : List Record) (r1 r2 : List Byte),
    parseStream A now = (o1, r1) →
    parseStream (r1 ++ C) (fun k => now (o1.length + k)) = (o2, r2) →
    ¬ (r1 = [] ∧ A.getLast? = some 0x65 ∧ C.head? = some 0x14) →
    parseStream (A ++ C) now = (o1 ++ o2, r2)

/-- The `SCAN` steps: with no room for a header the cursor goes to `LEN` and the command ends; with
room, a header at the cursor leads to `LENCHK` and anything else moves the cursor by one
(45_stream_framer.md R250, R251; `STATUS`, `ERR` and `ERRSUB` at the end R256). That `remReadable` is
then true is the model's mark of R52 (DESIGN CHOICE, notes/assumptions/19.md). -/
def Obligations.ScanSteps : Prop :=
  ∀ s : State, s.port = .empty → s.busy = true → s.fst = .scan →
    (s.len < s.cur + 2 → step s = .next { s with
      cur := s.len, fst := .done, status := 0b010, err := 0, errsub := 0, remReadable := true }) ∧
    ∀ a b : Byte, s.cur + 2 ≤ s.len → s.buf.read s.cur = some a → s.buf.read (s.cur + 1) = some b →
      (a = 0x65 ∧ b = 0x14 → step s = .next { s with fst := .lenchk }) ∧
      (¬ (a = 0x65 ∧ b = 0x14) → step s = .next { s with cur := s.cur + 1 })

/-- The `LENCHK` step, and the `TRY` step in its two branches: a window that decodes is appended and
the cursor moves by 18; one that fails moves the cursor by one and leaves no other trace
(45_stream_framer.md R252 to R256). `remReadable` is the model's mark (notes/assumptions/19.md). -/
def Obligations.LenchkAndTrySteps : Prop :=
  ∀ s : State, s.port = .empty → s.busy = true →
    (s.fst = .lenchk → s.cur + 18 ≤ s.len → step s = .next { s with fst := .tryWin }) ∧
    (s.fst = .lenchk → s.len < s.cur + 18 → step s = .next { s with
      fst := .done, status := 0b010, err := 0, errsub := 0, remReadable := true }) ∧
    ∀ w : List Byte, s.fst = .tryWin → s.cur + 18 ≤ s.len → s.buf.readRange s.cur 18 = some w →
      (∀ x, decodeMessage w (s.nowAt 0) = .ok x → step s = .next { s with
        out := s.out ++ [x], outn := s.outn + 1, cur := s.cur + 18, fst := .scan,
        nowIn := s.nowIn.tail, draws := s.draws + 1 }) ∧
      (∀ e, decodeMessage w (s.nowAt 0) = .error e → step s = .next { s with
        cur := s.cur + 1, fst := .scan })

/-- An accepted frame: as the window of a framer in `TRY` it is appended to `OUT`, stamped with the
value on `now`, and the cursor moves past it; by itself it is what `Decode` returns on it
(44_message_codec.md R219, R222; 45_stream_framer.md R254). The second clause is the model's choice
(notes/assumptions/1.md). -/
def Obligations.AcceptedFrameCompletes : Prop :=
  ∀ (f : FrameFields) (s : State),
    (s.busy = true → s.fst = .tryWin → exec (.frame18 f) s = .next { s with
      out := s.out ++ [recordOf f (s.nowAt 0)], outn := s.outn + 1, cur := s.cur + 18,
      fst := .scan, nowIn := s.nowIn.tail, draws := s.draws + 1 }) ∧
    (¬ (s.busy = true ∧ s.fst = .tryWin) → exec (.frame18 f) s = .next { s with
      result := .observation (recordOf f (s.nowAt 0)), nowIn := s.nowIn.tail,
      draws := s.draws + 1 }) ∧
    decodeMessage (encodeFrame f).toList (s.nowAt 0) = .ok (recordOf f (s.nowAt 0))

/-- Termination: a `PARSE` over written data has ended after at most `3 * LEN + 1` steps from its
start, which is the write of `CMD` (45_stream_framer.md R249, R257). -/
def Obligations.ParseEndsWithinItsBound : Prop :=
  ∀ (s : State) (B : List Byte), s.port = .empty → s.busy = false → s.holdsStream B →
    (∃ t, runSteps (3 * s.len + 1) s.startParse = .next t ∧ t.busy = false ∧ t.fst = .done) ∧
    ∃ t, runSteps (3 * s.len + 1) (s.writeCmd 3) = .next t ∧ t.busy = false ∧ t.fst = .done

/-- The machine computes the function: a `PARSE` command over the data `B` ends with `OUT` and the
remainder equal to what `ParseStream` gives on `B` with the values drawn from `now`, with no error,
and with `REC` and `FRAME` as they were (45_stream_framer.md R259; 60_exceptions.md R290). -/
def Obligations.ParseCommandComputesParseStream : Prop :=
  ∀ (s : State) (B : List Byte), s.port = .empty → s.busy = false → s.holdsStream B →
    ∃ t, s.command 3 = .next t ∧ t.busy = false ∧ t.fst = .done ∧
      t.out = (parseStream B s.nowAt).1 ∧ t.outn = t.out.length ∧
      t.remainder = some (parseStream B s.nowAt).2 ∧
      t.status = 0b010 ∧ t.err = 0 ∧ t.errsub = 0 ∧ t.record = s.record ∧ t.frame = s.frame

/-- The cursor's moves: a step of a running framer keeps the cursor, moves it by 1 or by 18, or moves
it to `LEN`, never back and never past `LEN` (10_state.md R41, R42). -/
def Obligations.CursorMovesForward : Prop :=
  ∀ s t : State, s.Inv → s.port = .empty → s.busy = true → step s = .next t →
    (t.cur = s.cur ∨ t.cur = s.cur + 1 ∨ t.cur = s.cur + 18 ∨ t.cur = t.len) ∧
    s.cur ≤ t.cur ∧ t.cur ≤ t.len ∧ t.len = s.len

/-! ## The machine -/

/-- A step runs the instruction that is fetched: the one presented at the port, or the frame in the
window at the cursor of a framer in `TRY` (30_encoding.md R120; 45_stream_framer.md R253; the port is
the model's, notes/assumptions/1.md). Around it the step empties the port and, for a command whose
write raised `busy`, hands the block over as idle. A word that names no operation returns its error,
but for a flag byte with neither flag bit, which returns that the channel is not valid
(notes/assumptions/12.md, DEDUCED from R187). An idle block with an empty port does nothing (R312). -/
def Obligations.StepRunsTheFetchedInstruction : Prop :=
  ∀ s : State,
    (∀ i, s.port = .command → decode (.command s.cmd) = .ok i → step s = exec i s.clearPort) ∧
    (∀ w i, s.port = .wire w → decode w = .ok i → step s = exec i s.clearPort) ∧
    (∀ i, s.port = .call i → step s = exec i s.clearPort) ∧
    (∀ w i, s.port = .empty → s.busy = true → s.fst = .tryWin → s.cur + 18 ≤ s.len →
      s.buf.readRange s.cur 18 = some w → decode (.frame w) = .ok i → step s = exec i s) ∧
    (∀ w e, s.port = .wire w → decode w = .error e →
      step s = .next (s.clearPort.returns (rejectedResult e))) ∧
    (∀ e, rejectedResult (.codec e) = .error e) ∧ rejectedResult .noFlag = .bool false ∧
    s.clearPort = { s with
      port := .empty, status := if s.port = .command ∧ s.busy = true then 0 else s.status } ∧
    (s.port = .empty → s.busy = false → step s = .next s)

/-- The state after reset: control registers 0, `FST = IDLE`, `OUT` empty, `LEN = 0`, no field of
`REC`, no byte of `FRAME` and no byte of `BUF` written, and the block idle until a command is
written (10_state.md R57). -/
def Obligations.ResetValues : Prop :=
  State.reset.cmd = 0 ∧ State.reset.status = 0 ∧ State.reset.err = 0 ∧ State.reset.errsub = 0 ∧
  State.reset.len = 0 ∧ State.reset.cur = 0 ∧ State.reset.fst = .idle ∧ State.reset.outn = 0 ∧
  State.reset.out = [] ∧ State.reset.recordSet = ⟨false, false, false, false, false, false⟩ ∧
  State.reset.frameSet = 0 ∧ (∀ a, State.reset.buf.read a = none) ∧
  step State.reset = .next State.reset

/-- The reset input, whatever the block was doing, leaves the reset state: every field but the two
that describe the `now` input, which is the environment's, is that of reset
(70_reset_and_hazards.md R310, R311). -/
def Obligations.ResetInputAbandonsEverything : Prop :=
  ∀ s : State,
    s.hostReset = { State.reset with nowIn := s.nowIn, draws := s.draws } ∧ s.hostReset.Inv ∧
      s.hostReset.busy = false ∧ step s.hostReset = .next s.hostReset

/-- The host's write of `BUF`: while the block is idle and the range fits, the bytes stand at their
indices, every other index is as it was, and the remainder of the last `PARSE` has no value any more;
otherwise it is ignored as a whole; and no step of the block writes `BUF` (20_memory.md R73). That the
remainder then has no value is 10_state.md R52, kept by the model's mark (notes/assumptions/19.md). -/
def Obligations.HostWritesOfTheBuffer : Prop :=
  (∀ (addr : Nat) (v : List Byte) (s : State), s.busy = false →
    withinCap (addr + v.length) = true →
    (∀ a, (s.memWrite addr v).buf.read a =
      if addr ≤ a ∧ a < addr + v.length then v[a - addr]? else s.buf.read a) ∧
    s.memWrite addr v = { s with buf := (s.memWrite addr v).buf, remReadable := false } ∧
    (s.memWrite addr v).remainder = none) ∧
  (∀ (addr : Nat) (v : List Byte) (s : State),
    s.busy = true ∨ withinCap (addr + v.length) = false → s.memWrite addr v = s) ∧
  ∀ s t : State, step s = .next t → t.buf = s.buf

/-- `LEN` is written by the host while the block is idle, a value above `BUF_CAP` is ignored, a write
ends the remainder of the last `PARSE`, no step writes it, and it is 0 after reset (10_state.md R49,
R52). A capacity is at least 18 bytes or none at all (00_scope.md R8). -/
def Obligations.LenIsTheHostsToWrite : Prop :=
  (∀ (n : Nat) (s : State), s.busy = false → s.writeLen n =
    if withinCap n = true then { s with len := n, remReadable := false } else s) ∧
  (∀ above n : Nat, fitsIn (.bytes above) n = true ↔ n ≤ 18 + above) ∧
  (∀ n, fitsIn .unbounded n = true) ∧ (∀ n, withinCap n = fitsIn Config.bufCap n) ∧
  (∀ n, n ≤ 18 → withinCap n = true) ∧
  (∀ (n : Nat) (s : State), s.busy = true → s.writeLen n = s) ∧
  (∀ s t : State, step s = .next t → t.len = s.len) ∧ State.reset.len = 0

/-- Host writes made while the block is busy are ignored, and host reads, but for that of `STATUS`, then
have no value (20_memory.md R82; 60_exceptions.md R302; 10_state.md R46). The model's choices in it:
that a word or a call presented to a busy block is ignored too (DESIGN CHOICE, notes/assumptions/1.md),
that a read without a value answers `none` while `STATUS` is read at any time
(notes/assumptions/18.md), and that a feed then carries nothing (notes/assumptions/19.md). -/
def Obligations.BusyBlockShutsTheHostOut : Prop :=
  ∀ s : State, s.busy = true →
    (∀ w, s.writeField w = s) ∧ (∀ o b, s.writeFrameByte o b = s) ∧ (∀ F, s.setFrameAll F = s) ∧
    (∀ a v, s.memWrite a v = s) ∧ (∀ n, s.writeLen n = s) ∧
    (∀ c, s.writeCmd c = s) ∧ (∀ w, s.presentWire w = s) ∧ (∀ i, s.callFunction i = s) ∧
    (∀ i, s.readBuf i = none) ∧ (∀ j, s.readOut j = none) ∧ (∀ o, s.readFrame o = none) ∧
    (∀ (α : Type) (mark : RecordSet → Bool) (get : Record → α), s.readField mark get = none) ∧
    s.readErr = none ∧ s.readFramer = none ∧ s.remainder = none ∧ s.carried = none

/-- The host's writes of `REC` and `FRAME` on an idle block: the field or byte written reads back, it is
marked as written, and nothing else of the state changes (10_state.md R30, R31, R37; 20_memory.md
R88). -/
def Obligations.HostWritesOfTheRegisters : Prop :=
  ∀ s : State, s.busy = false →
    (∀ v, s.writeField (.t0 v) = { s with
        record := { s.record with t0 := v }, recordSet := { s.recordSet with t0 := true } } ∧
      (s.writeField (.t0 v)).readField (·.t0) (·.t0) = some v) ∧
    (∀ v, s.writeField (.t1 v) = { s with
        record := { s.record with t1 := v }, recordSet := { s.recordSet with t1 := true } } ∧
      (s.writeField (.t1 v)).readField (·.t1) (·.t1) = some v) ∧
    (∀ c, s.writeField (.units c) = { s with
        record := { s.record with units := c }, recordSet := { s.recordSet with units := true } } ∧
      (s.writeField (.units c)).readField (·.units) (·.units) = some c) ∧
    (∀ c, s.writeField (.tc c) = { s with
        record := { s.record with tc := c }, recordSet := { s.recordSet with tc := true } } ∧
      (s.writeField (.tc c)).readField (·.tc) (·.tc) = some c) ∧
    (∀ n, s.writeField (.systemTime n) = { s with
        record := { s.record with systemTime := n }
        recordSet := { s.recordSet with systemTime := true } } ∧
      (s.writeField (.systemTime n)).readField (·.systemTime) (·.systemTime) = some n) ∧
    (∀ d, s.writeField (.meterTime d) = { s with
        record := { s.record with meterTime := d }
        recordSet := { s.recordSet with meterTime := true } } ∧
      (s.writeField (.meterTime d)).readField (·.meterTime) (·.meterTime) = some d) ∧
    (∀ o b, (s.writeFrameByte o b).readFrame o = some b ∧
      s.writeFrameByte o b = { s with
        frame := (s.writeFrameByte o b).frame, frameSet := (s.writeFrameByte o b).frameSet } ∧
      ∀ o', o' ≠ o → (s.writeFrameByte o b).readFrame o' = s.readFrame o') ∧
    ∀ F, s.setFrameAll F = { s with frame := F, frameSet := BitVec.allOnes 18 } ∧
      ∀ o, (s.setFrameAll F).readFrame o = some F[o]

/-- `FEED` puts the remainder of the last `PARSE`, or nothing after reset, in front of the chunk, sets
`LEN` to their length and issues `PARSE`, which runs to `done` and gives what `ParseStream` gives on the
two together; where there is no remainder to carry the feed has no meaning (30_encoding.md R124, R125;
70_reset_and_hazards.md R317; the last clause is the model's choice, notes/assumptions/19.md). -/
def Obligations.FeedCarriesTheRemainder : Prop :=
  (∀ (s : State) (rem chunk : List Byte), s.busy = false → s.carried = some rem →
    withinCap (rem.length + chunk.length) = true →
    (∃ u, s.startFeed chunk = some u ∧ u.holdsStream (rem ++ chunk) ∧ u.cmd = 3 ∧
      u.port = .empty ∧ u.busy = true ∧ u.fst = .scan) ∧
    ∃ t, s.feed chunk = some (.next t) ∧ t.busy = false ∧ t.fst = .done ∧
      t.out = (parseStream (rem ++ chunk) s.nowAt).1 ∧
      t.remainder = some (parseStream (rem ++ chunk) s.nowAt).2) ∧
  (∀ s : State, s.busy = false → (s.fst = .idle → s.carried = some []) ∧
    (s.fst ≠ .idle → s.carried = s.remainder)) ∧
  ∀ (s : State) (chunk : List Byte), s.carried = none →
    s.startFeed chunk = none ∧ s.feed chunk = none

/-- The invariant holds at reset. -/
def Obligations.InvariantHoldsAtReset : Prop := State.reset.Inv

/-- Every step keeps the invariant: `BUF` in its canonical form, `OUTN` the length of `OUT`, every
entry of `OUT` a record decode can write, legal `STATUS`, `ERR` and `ERRSUB`, the cursor within the
data while busy with the header at it from `LENCHK` on, `FST` idle or done while idle,
the shape of a readable remainder, and `LEN`, `BUF` and `OUT` within the capacity
(10_state.md R42, R46, R51, R52, R54, R55; 45_stream_framer.md R252, R253, R258; 60_exceptions.md
R285). -/
def Obligations.EveryStepKeepsTheInvariant : Prop :=
  ∀ s t : State, s.Inv → step s = .next t → t.Inv

/-- From a state with the invariant no step faults: the framer has no stuck state
(45_stream_framer.md R257; 20_memory.md R72). -/
def Obligations.NoStepFaultsUnderTheInvariant : Prop :=
  ∀ s : State, s.Inv → notFault (step s)

/-- `OUT` never exceeds its capacity: in every state with the invariant it fits, and while a `PARSE` runs
over at most `bufCap` bytes it holds at most `OUT_CAP` of that many, before a step or after it, whether
the step ends the command or not (10_state.md R55). -/
def Obligations.OutNeverExceedsItsCapacity : Prop :=
  (∀ s : State, s.Inv → withinCap (18 * s.out.length) = true) ∧
  ∀ (s t : State) (bufCap : Nat), s.Inv → s.port = .empty → s.busy = true → s.len ≤ bufCap →
    step s = .next t →
    s.out.length ≤ Config.outCap bufCap ∧ t.out.length ≤ Config.outCap bufCap

/-- Every act of the host keeps the invariant: each write, the start of a command, a word presented, a
function called, values put on `now`, and reset (10_state.md R42, R49, R52, R54; 20_memory.md R73, R82;
70_reset_and_hazards.md R310, R319). -/
def Obligations.HostActsKeepTheInvariant : Prop :=
  ∀ s : State, s.Inv →
    (∀ w, (s.writeField w).Inv) ∧ (∀ o b, (s.writeFrameByte o b).Inv) ∧
    (∀ F, (s.setFrameAll F).Inv) ∧ (∀ addr v, (s.memWrite addr v).Inv) ∧
    (∀ n, (s.writeLen n).Inv) ∧ (∀ c, (s.writeCmd c).Inv) ∧ (∀ nows, (s.holdNow nows).Inv) ∧
    (∀ w, (s.presentWire w).Inv) ∧ (∀ i, (s.callFunction i).Inv) ∧ s.hostReset.Inv ∧
    ∀ chunk u, s.startFeed chunk = some u → u.Inv
end

