-- ==== Sys2Proof/Laws/Fields.lean ====
section
/-! SUPPORT. The small laws of the field, flag and enum operations (40_field_primitives.md,
41_enum_codec.md). -/

namespace Sys2Proof.Machine

/-- The byte of a frame made from a byte sequence. -/
@[simp] theorem frameOf_getElem (F : List Byte) (h : F.length = 18) (i : Nat) (hi : i < 18) :
    (frameOf F h)[i] = F[i] := by simp [frameOf]

@[simp] theorem frameOf_toList (F : List Byte) (h : F.length = 18) : (frameOf F h).toList = F := by
  simp [frameOf]

@[simp] theorem getU8_frameOf (F : List Byte) (h : F.length = 18) (o : Fin 18) :
    getU8 (frameOf F h) o = F[o.val] := by simp [getU8, frameOf]

/-- `Eq2` holds exactly when both bytes are there and match. -/
theorem eq2_iff (S : List Byte) (i : Nat) (c0 c1 : Byte) :
    eq2 S i c0 c1 = true ↔ S[i]? = some c0 ∧ S[i + 1]? = some c1 := by
  simp [eq2]

@[simp] theorem hiByte_append (a b : Byte) : hiByte (a ++ b) = a := by
  ext i hi
  simp only [hiByte, BitVec.getElem_extractLsb']
  rw [BitVec.getLsbD_append, if_neg (by omega), Nat.add_sub_cancel_left,
    BitVec.getLsbD_eq_getElem hi]

@[simp] theorem loByte_append (a b : Byte) : loByte (a ++ b) = b := by
  ext i hi
  simp only [loByte, BitVec.getElem_extractLsb', Nat.zero_add]
  rw [BitVec.getLsbD_append, if_pos hi, BitVec.getLsbD_eq_getElem hi]

@[simp] theorem hiByte_append_loByte (u : Half) : hiByte u ++ loByte u = u := by
  ext i hi
  simp only [hiByte, loByte, BitVec.getElem_append, BitVec.getElem_extractLsb']
  split
  · rw [Nat.zero_add, BitVec.getLsbD_eq_getElem hi]
  · rw [show 8 + (i - 8) = i by omega, BitVec.getLsbD_eq_getElem hi]

@[simp] theorem u16_sext16 (u : Half) : u16 (sext16 u) = u := by simp [u16, sext16]

/-- `sext_16` undoes `u16` on the signed 16-bit integers (00_scope.md R12). -/
theorem sext16_u16 (k : Int) (h : inS16 k = true) : sext16 (u16 k) = k := by
  simp only [inS16, Bool.and_eq_true, decide_eq_true_eq] at h
  rw [sext16, u16, BitVec.toInt_ofInt, Int.bmod_def]
  omega

/-- Every 16-bit field is a signed 16-bit integer (00_scope.md R12). -/
theorem inS16_sext16 (u : Half) : inS16 (sext16 u) = true := by
  have h1 := BitVec.toInt_lt (x := u)
  have h2 := BitVec.le_toInt (x := u)
  simp only [inS16, sext16, Bool.and_eq_true]
  exact ⟨decide_eq_true (by omega), decide_eq_true (by omega)⟩

@[simp] theorem lowNibble_append (h n : BitVec 4) : lowNibble (h ++ n) = n := by
  ext i hi
  simp only [lowNibble, BitVec.getElem_extractLsb', Nat.zero_add]
  rw [BitVec.getLsbD_append, if_pos hi, BitVec.getLsbD_eq_getElem hi]

@[simp] theorem highNibble_append (h n : BitVec 4) : highNibble (h ++ n) = h := by
  ext i hi
  simp only [highNibble, BitVec.getElem_extractLsb']
  rw [BitVec.getLsbD_append, if_neg (by omega), Nat.add_sub_cancel_left,
    BitVec.getLsbD_eq_getElem hi]

@[simp] theorem highNibble_append_lowNibble (b : Byte) : highNibble b ++ lowNibble b = b := by
  ext i hi
  simp only [highNibble, lowNibble, BitVec.getElem_append, BitVec.getElem_extractLsb']
  split
  · rw [Nat.zero_add, BitVec.getLsbD_eq_getElem hi]
  · rw [show 4 + (i - 4) = i by omega, BitVec.getLsbD_eq_getElem hi]

@[simp] theorem unitOfCode_unitCode (u : TemperatureUnit) :
    unitOfCode ((unitCode u).setWidth 4) = some u := by cases u <;> rfl

@[simp] theorem tcOfCode_tcCode (ty : ThermocoupleType) :
    tcOfCode ((tcCode ty).setWidth 4) = some ty := by cases ty <;> rfl

/-- A 4-bit code that names a unit is that unit's code. -/
theorem unitCode_of_unitOfCode : ∀ (n : BitVec 4) (u : TemperatureUnit),
    unitOfCode n = some u → (unitCode u).setWidth 4 = n := by
  intro n u
  revert n
  cases u <;> decide

/-- A 4-bit code that names a thermocouple type is that type's code. -/
theorem tcCode_of_tcOfCode : ∀ (n : BitVec 4) (ty : ThermocoupleType),
    tcOfCode n = some ty → (tcCode ty).setWidth 4 = n := by
  intro n ty
  revert n
  cases ty <;> decide

/-- `DecUnit` answers a unit exactly when the low nibble is its code. -/
theorem decUnit_ok_iff (b : Byte) (u : TemperatureUnit) :
    decUnit b = .ok u ↔ unitOfCode (lowNibble b) = some u := by
  unfold decUnit; cases unitOfCode (lowNibble b) <;> simp

/-- `DecTc` answers a type exactly when the low nibble is its code. -/
theorem decTc_ok_iff (b : Byte) (ty : ThermocoupleType) :
    decTc b = .ok ty ↔ tcOfCode (lowNibble b) = some ty := by
  unfold decTc; cases tcOfCode (lowNibble b) <;> simp

@[simp] theorem decUnit_append (h : BitVec 4) (u : TemperatureUnit) :
    decUnit (h ++ (unitCode u).setWidth 4) = .ok u := by simp [decUnit]

@[simp] theorem decTc_append (h : BitVec 4) (ty : ThermocoupleType) :
    decTc (h ++ (tcCode ty).setWidth 4) = .ok ty := by simp [decTc]

/-- No code of a unit is 0 (41_enum_codec.md R160). -/
theorem unitCode_ne_zero (u : TemperatureUnit) : unitCode u ≠ 0 := by cases u <;> decide

/-- No code of a thermocouple type is 0 (41_enum_codec.md R161). -/
theorem tcCode_ne_zero (ty : ThermocoupleType) : tcCode ty ≠ 0 := by cases ty <;> decide

@[simp] theorem channelValid_flagByteFor (b : Bool) : channelValid (flagByteFor b) = b := by
  cases b <;> decide

/-- No error has code 0 (60_exceptions.md R285). -/
theorem errCode_ne_zero (e : Err) : errCode e ≠ 0 := by cases e <;> simp [errCode]

/-- The joined time of any three bytes is at most 933555 s (43_meter_time.md R203). -/
theorem joinTime_le (hh mm ss : Byte) : joinTime hh mm ss ≤ 933555 := by
  unfold joinTime; have := hh.isLt; have := mm.isLt; have := ss.isLt; omega

/-- The joined time fits the 20 bits of the register (43_meter_time.md R203). -/
@[simp] theorem joinDuration_sec (hh mm ss : Byte) :
    (joinDuration hh mm ss).sec.toNat = joinTime hh mm ss := by
  have := joinTime_le hh mm ss
  simp only [joinDuration, BitVec.toNat_ofNat]
  omega

@[simp] theorem joinDuration_frac (hh mm ss : Byte) : (joinDuration hh mm ss).frac = 0 := rfl

end Sys2Proof.Machine
end

