-- ==== Sys2Proof/Laws/Codec.lean ====
section
/-! SUPPORT. What the whole-message functions can do, said once: the outcomes of `decodeFrame`,
`decodeMessage`, `encodeMessage` and of the temperature packer. -/

namespace Sys2Proof.Machine

/-- What a frame that passes the checks is: 18 bytes with the two constants and two codes that name
values, and the fields are those of its bytes. -/
theorem decodeFrame_ok (F : List Byte) (f : FrameFields) (hF : decodeFrame F = .ok f) :
    ∃ h : F.length = 18, ∃ tc u, eq2 F 0 Config.hdr0 Config.hdr1 = true ∧
      eq2 F 16 Config.trl0 Config.trl1 = true ∧ decTc (F[9]) = .ok tc ∧ decUnit (F[10]) = .ok u ∧
      f = frameFields (frameOf F h) tc u := by
  unfold decodeFrame at hF
  split at hF
  · rename_i h
    split at hF
    · split at hF
      · split at hF
        · cases hF
        · rename_i tc htc
          split at hF
          · cases hF
          · rename_i u hu
            simp only [Except.ok.injEq] at hF
            exact ⟨h, tc, u, ‹_›, ‹_›, by simpa using htc, by simpa using hu, hF.symm⟩
      · cases hF
    · cases hF
  · cases hF

/-- A frame of 18 bytes that starts with the header is never refused for its length or its header
(45_stream_framer.md R245). -/
theorem decodeFrame_error_of_header (F : List Byte) (e : Err) (h : F.length = 18)
    (hh : eq2 F 0 Config.hdr0 Config.hdr1 = true) (he : decodeFrame F = .error e) :
    e = .format .trailer ∨ e = .format .tcEnum ∨ e = .format .unitEnum := by
  unfold decodeFrame at he
  rw [dif_pos h, if_pos hh] at he
  split at he
  · split at he
    · rename_i e' htc
      simp only [Except.error.injEq] at he
      subst he
      unfold decTc at htc
      split at htc
      · cases htc
      · exact .inr (.inl (by simpa using htc.symm))
    · split at he
      · rename_i e' hu
        simp only [Except.error.injEq] at he
        subst he
        unfold decUnit at hu
        split at hu
        · cases hu
        · exact .inr (.inr (by simpa using hu.symm))
      · cases he
  · exact .inl (by simpa using he.symm)

/-- `Decode` answers the record of the fields of a frame that passes the checks. -/
theorem decodeMessage_ok_iff (F : List Byte) (now : Time) (r : Record) :
    decodeMessage F now = .ok r ↔ ∃ f, decodeFrame F = .ok f ∧ r = recordOf f now := by
  unfold decodeMessage
  cases decodeFrame F with
  | error e => simp
  | ok f => simp [eq_comm]

/-- `Decode` fails exactly as the checks of the frame fail. -/
theorem decodeMessage_error_iff (F : List Byte) (now : Time) (e : Err) :
    decodeMessage F now = .error e ↔ decodeFrame F = .error e := by
  unfold decodeMessage
  cases decodeFrame F <;> simp

/-- What `PackTemp` answers when it answers: the placeholder for a non-finite value, the count of
tenths for a finite one (42_temperature.md R181). -/
theorem packTemp_ok (t : F64) (k : Int) (fl : Byte) (h : packTemp t = .ok (k, fl)) :
    (finiteTemp t = false ∧ k = Config.placeholder ∧ fl = Config.flagInvalid) ∨
      (finiteTemp t = true ∧ tenthsOf t = some k ∧ inS16 k = true ∧ fl = Config.flagValid) := by
  unfold packTemp at h
  split at h
  · rename_i hf
    split at h
    · rename_i k' hk
      split at h
      · rename_i hin
        simp only [Except.ok.injEq, Prod.mk.injEq] at h
        obtain ⟨rfl, rfl⟩ := h
        exact .inr ⟨hf, hk, hin, rfl⟩
      · cases h
    · cases h
  · rename_i hf
    simp only [Except.ok.injEq, Prod.mk.injEq] at h
    exact .inl ⟨by simpa using hf, h.1.symm, h.2.symm⟩

/-- What `PackTime` answers when it answers: the three quotients of a time below 921600 s
(43_meter_time.md R202). -/
theorem packTime_ok (d : Duration) (hh mm ss : Byte) (h : packTime d = .ok (hh, mm, ss)) :
    d.sec.toNat < 921600 ∧ hh.toNat = d.sec.toNat / 3600 ∧ mm.toNat = d.sec.toNat % 3600 / 60 ∧
      ss.toNat = d.sec.toNat % 3600 % 60 := by
  simp only [packTime, splitTime, wholeSeconds] at h
  by_cases hl : 255 < d.sec.toNat / 3600
  · simp [hl] at h
  · simp only [hl, if_false, Except.ok.injEq, Prod.mk.injEq] at h
    obtain ⟨rfl, rfl, rfl⟩ := h
    simp only [BitVec.toNat_ofNat]
    omega

/-- What `Encode` has found when it answers a frame: two channels that pack, two codes that name
values, a time below 921600 s (44_message_codec.md R217). -/
theorem encodeMessage_ok (x : Observation) (F : Frame) (h : encodeMessage x = .ok F) :
    ∃ a b k1 f1 k2 f2 tb ub hh mm ss, x.channelTemp = [a, b] ∧ packTemp a = .ok (k1, f1) ∧
      packTemp b = .ok (k2, f2) ∧ encTcReg x.tc = .ok tb ∧ encUnitReg x.units = .ok ub ∧
      packTime x.meterTime = .ok (hh, mm, ss) ∧ F = messageFrame k1 f1 k2 f2 tb ub hh mm ss := by
  unfold encodeMessage at h
  split at h
  · rename_i a b hx
    split at h
    · cases h
    · rename_i k1 f1 h1
      split at h
      · cases h
      · rename_i k2 f2 h2
        split at h
        · cases h
        · rename_i tb h3
          split at h
          · cases h
          · rename_i ub h4
            split at h
            · cases h
            · rename_i hh mm ss h5
              simp only [Except.ok.injEq] at h
              exact ⟨a, b, k1, f1, k2, f2, tb, ub, hh, mm, ss, hx, h1, h2, h3, h4, h5, h.symm⟩
  · cases h

theorem encTcReg_error (c : BitVec 3) (e : Err) (h : encTcReg c = .error e) :
    e = .range .tcCode := by
  unfold encTcReg at h
  split at h
  · cases h
  · exact (Except.error.inj h).symm

theorem encUnitReg_error (c : BitVec 2) (e : Err) (h : encUnitReg c = .error e) :
    e = .range .unitCode := by
  unfold encUnitReg at h
  split at h
  · cases h
  · exact (Except.error.inj h).symm

theorem packTime_error (d : Duration) (e : Err) (h : packTime d = .error e) :
    e = .range .hours := by
  unfold packTime at h
  dsimp only at h
  split at h
  · exact (Except.error.inj h).symm
  · cases h

/-- The errors `Encode` reports; `RangeError(TEMP)` is not among them (44_message_codec.md R217,
R218). -/
theorem encodeMessage_error (x : Observation) (e : Err) (h : encodeMessage x = .error e) :
    e = .shape ∨ ∃ c, c ≠ .temp ∧ e = .range c := by
  unfold encodeMessage at h
  split at h
  · split at h
    · exact .inr ⟨.temp1, by decide, (Except.error.inj h).symm⟩
    · split at h
      · exact .inr ⟨.temp2, by decide, (Except.error.inj h).symm⟩
      · split at h
        · rename_i he
          obtain rfl := Except.error.inj h
          exact .inr ⟨.tcCode, by decide, encTcReg_error _ _ he⟩
        · split at h
          · rename_i he
            obtain rfl := Except.error.inj h
            exact .inr ⟨.unitCode, by decide, encUnitReg_error _ _ he⟩
          · split at h
            · rename_i he
              obtain rfl := Except.error.inj h
              exact .inr ⟨.hours, by decide, packTime_error _ _ he⟩
            · cases h
  · exact .inl (Except.error.inj h).symm

end Sys2Proof.Machine
end

