-- ==== Sys2Proof/Laws/State.lean ====
section
/-! SUPPORT. One lemma per field per update of the state, each true by rfl. -/

namespace Sys2Proof.Machine

variable (s : State)

/-! ## `setRecord` -/

@[simp] theorem State.setRecord_record (r : Record) : (s.setRecord r).record = r := rfl
@[simp] theorem State.setRecord_frame (r : Record) : (s.setRecord r).frame = s.frame := rfl
@[simp] theorem State.setRecord_buf (r : Record) : (s.setRecord r).buf = s.buf := rfl
@[simp] theorem State.setRecord_len (r : Record) : (s.setRecord r).len = s.len := rfl
@[simp] theorem State.setRecord_cur (r : Record) : (s.setRecord r).cur = s.cur := rfl
@[simp] theorem State.setRecord_out (r : Record) : (s.setRecord r).out = s.out := rfl
@[simp] theorem State.setRecord_outn (r : Record) : (s.setRecord r).outn = s.outn := rfl
@[simp] theorem State.setRecord_fst (r : Record) : (s.setRecord r).fst = s.fst := rfl
@[simp] theorem State.setRecord_cmd (r : Record) : (s.setRecord r).cmd = s.cmd := rfl
@[simp] theorem State.setRecord_status (r : Record) : (s.setRecord r).status = s.status := rfl
@[simp] theorem State.setRecord_err (r : Record) : (s.setRecord r).err = s.err := rfl
@[simp] theorem State.setRecord_errsub (r : Record) : (s.setRecord r).errsub = s.errsub := rfl
@[simp] theorem State.setRecord_recordSet (r : Record) : (s.setRecord r).recordSet = ⟨true, true, true, true, true, true⟩ := rfl
@[simp] theorem State.setRecord_frameSet (r : Record) : (s.setRecord r).frameSet = s.frameSet := rfl
@[simp] theorem State.setRecord_remReadable (r : Record) : (s.setRecord r).remReadable = s.remReadable := rfl
@[simp] theorem State.setRecord_nowIn (r : Record) : (s.setRecord r).nowIn = s.nowIn := rfl
@[simp] theorem State.setRecord_draws (r : Record) : (s.setRecord r).draws = s.draws := rfl
@[simp] theorem State.setRecord_port (r : Record) : (s.setRecord r).port = s.port := rfl
@[simp] theorem State.setRecord_result (r : Record) : (s.setRecord r).result = s.result := rfl

/-! ## `setFrame` -/

@[simp] theorem State.setFrame_record (F : Frame) : (s.setFrame F).record = s.record := rfl
@[simp] theorem State.setFrame_frame (F : Frame) : (s.setFrame F).frame = F := rfl
@[simp] theorem State.setFrame_buf (F : Frame) : (s.setFrame F).buf = s.buf := rfl
@[simp] theorem State.setFrame_len (F : Frame) : (s.setFrame F).len = s.len := rfl
@[simp] theorem State.setFrame_cur (F : Frame) : (s.setFrame F).cur = s.cur := rfl
@[simp] theorem State.setFrame_out (F : Frame) : (s.setFrame F).out = s.out := rfl
@[simp] theorem State.setFrame_outn (F : Frame) : (s.setFrame F).outn = s.outn := rfl
@[simp] theorem State.setFrame_fst (F : Frame) : (s.setFrame F).fst = s.fst := rfl
@[simp] theorem State.setFrame_cmd (F : Frame) : (s.setFrame F).cmd = s.cmd := rfl
@[simp] theorem State.setFrame_status (F : Frame) : (s.setFrame F).status = s.status := rfl
@[simp] theorem State.setFrame_err (F : Frame) : (s.setFrame F).err = s.err := rfl
@[simp] theorem State.setFrame_errsub (F : Frame) : (s.setFrame F).errsub = s.errsub := rfl
@[simp] theorem State.setFrame_recordSet (F : Frame) : (s.setFrame F).recordSet = s.recordSet := rfl
@[simp] theorem State.setFrame_frameSet (F : Frame) : (s.setFrame F).frameSet = BitVec.allOnes 18 := rfl
@[simp] theorem State.setFrame_remReadable (F : Frame) : (s.setFrame F).remReadable = s.remReadable := rfl
@[simp] theorem State.setFrame_nowIn (F : Frame) : (s.setFrame F).nowIn = s.nowIn := rfl
@[simp] theorem State.setFrame_draws (F : Frame) : (s.setFrame F).draws = s.draws := rfl
@[simp] theorem State.setFrame_port (F : Frame) : (s.setFrame F).port = s.port := rfl
@[simp] theorem State.setFrame_result (F : Frame) : (s.setFrame F).result = s.result := rfl

/-! ## `returns` -/

@[simp] theorem State.returns_record (r : Result) : (s.returns r).record = s.record := rfl
@[simp] theorem State.returns_frame (r : Result) : (s.returns r).frame = s.frame := rfl
@[simp] theorem State.returns_buf (r : Result) : (s.returns r).buf = s.buf := rfl
@[simp] theorem State.returns_len (r : Result) : (s.returns r).len = s.len := rfl
@[simp] theorem State.returns_cur (r : Result) : (s.returns r).cur = s.cur := rfl
@[simp] theorem State.returns_out (r : Result) : (s.returns r).out = s.out := rfl
@[simp] theorem State.returns_outn (r : Result) : (s.returns r).outn = s.outn := rfl
@[simp] theorem State.returns_fst (r : Result) : (s.returns r).fst = s.fst := rfl
@[simp] theorem State.returns_cmd (r : Result) : (s.returns r).cmd = s.cmd := rfl
@[simp] theorem State.returns_status (r : Result) : (s.returns r).status = s.status := rfl
@[simp] theorem State.returns_err (r : Result) : (s.returns r).err = s.err := rfl
@[simp] theorem State.returns_errsub (r : Result) : (s.returns r).errsub = s.errsub := rfl
@[simp] theorem State.returns_recordSet (r : Result) : (s.returns r).recordSet = s.recordSet := rfl
@[simp] theorem State.returns_frameSet (r : Result) : (s.returns r).frameSet = s.frameSet := rfl
@[simp] theorem State.returns_remReadable (r : Result) : (s.returns r).remReadable = s.remReadable := rfl
@[simp] theorem State.returns_nowIn (r : Result) : (s.returns r).nowIn = s.nowIn := rfl
@[simp] theorem State.returns_draws (r : Result) : (s.returns r).draws = s.draws := rfl
@[simp] theorem State.returns_port (r : Result) : (s.returns r).port = s.port := rfl
@[simp] theorem State.returns_result (r : Result) : (s.returns r).result = r := rfl

/-! ## `beginCommand` -/

@[simp] theorem State.beginCommand_record : (s.beginCommand).record = s.record := rfl
@[simp] theorem State.beginCommand_frame : (s.beginCommand).frame = s.frame := rfl
@[simp] theorem State.beginCommand_buf : (s.beginCommand).buf = s.buf := rfl
@[simp] theorem State.beginCommand_len : (s.beginCommand).len = s.len := rfl
@[simp] theorem State.beginCommand_cur : (s.beginCommand).cur = s.cur := rfl
@[simp] theorem State.beginCommand_out : (s.beginCommand).out = s.out := rfl
@[simp] theorem State.beginCommand_outn : (s.beginCommand).outn = s.outn := rfl
@[simp] theorem State.beginCommand_fst : (s.beginCommand).fst = s.fst := rfl
@[simp] theorem State.beginCommand_cmd : (s.beginCommand).cmd = s.cmd := rfl
@[simp] theorem State.beginCommand_status : (s.beginCommand).status = statusStart := rfl
@[simp] theorem State.beginCommand_err : (s.beginCommand).err = 0 := rfl
@[simp] theorem State.beginCommand_errsub : (s.beginCommand).errsub = 0 := rfl
@[simp] theorem State.beginCommand_recordSet : (s.beginCommand).recordSet = s.recordSet := rfl
@[simp] theorem State.beginCommand_frameSet : (s.beginCommand).frameSet = s.frameSet := rfl
@[simp] theorem State.beginCommand_remReadable : (s.beginCommand).remReadable = s.remReadable := rfl
@[simp] theorem State.beginCommand_nowIn : (s.beginCommand).nowIn = s.nowIn := rfl
@[simp] theorem State.beginCommand_draws : (s.beginCommand).draws = s.draws := rfl
@[simp] theorem State.beginCommand_port : (s.beginCommand).port = s.port := rfl
@[simp] theorem State.beginCommand_result : (s.beginCommand).result = s.result := rfl

/-! ## `endOk` -/

@[simp] theorem State.endOk_record : (s.endOk).record = s.record := rfl
@[simp] theorem State.endOk_frame : (s.endOk).frame = s.frame := rfl
@[simp] theorem State.endOk_buf : (s.endOk).buf = s.buf := rfl
@[simp] theorem State.endOk_len : (s.endOk).len = s.len := rfl
@[simp] theorem State.endOk_cur : (s.endOk).cur = s.cur := rfl
@[simp] theorem State.endOk_out : (s.endOk).out = s.out := rfl
@[simp] theorem State.endOk_outn : (s.endOk).outn = s.outn := rfl
@[simp] theorem State.endOk_fst : (s.endOk).fst = s.fst := rfl
@[simp] theorem State.endOk_cmd : (s.endOk).cmd = s.cmd := rfl
@[simp] theorem State.endOk_status : (s.endOk).status = statusEnd 0 := rfl
@[simp] theorem State.endOk_err : (s.endOk).err = 0 := rfl
@[simp] theorem State.endOk_errsub : (s.endOk).errsub = 0 := rfl
@[simp] theorem State.endOk_recordSet : (s.endOk).recordSet = s.recordSet := rfl
@[simp] theorem State.endOk_frameSet : (s.endOk).frameSet = s.frameSet := rfl
@[simp] theorem State.endOk_remReadable : (s.endOk).remReadable = s.remReadable := rfl
@[simp] theorem State.endOk_nowIn : (s.endOk).nowIn = s.nowIn := rfl
@[simp] theorem State.endOk_draws : (s.endOk).draws = s.draws := rfl
@[simp] theorem State.endOk_port : (s.endOk).port = s.port := rfl
@[simp] theorem State.endOk_result : (s.endOk).result = s.result := rfl

/-! ## `raise` -/

@[simp] theorem State.raise_record (e : Err) : (s.raise e).record = s.record := rfl
@[simp] theorem State.raise_frame (e : Err) : (s.raise e).frame = s.frame := rfl
@[simp] theorem State.raise_buf (e : Err) : (s.raise e).buf = s.buf := rfl
@[simp] theorem State.raise_len (e : Err) : (s.raise e).len = s.len := rfl
@[simp] theorem State.raise_cur (e : Err) : (s.raise e).cur = s.cur := rfl
@[simp] theorem State.raise_out (e : Err) : (s.raise e).out = s.out := rfl
@[simp] theorem State.raise_outn (e : Err) : (s.raise e).outn = s.outn := rfl
@[simp] theorem State.raise_fst (e : Err) : (s.raise e).fst = s.fst := rfl
@[simp] theorem State.raise_cmd (e : Err) : (s.raise e).cmd = s.cmd := rfl
@[simp] theorem State.raise_status (e : Err) : (s.raise e).status = statusEnd (errCode e) := rfl
@[simp] theorem State.raise_err (e : Err) : (s.raise e).err = errCode e := rfl
@[simp] theorem State.raise_errsub (e : Err) : (s.raise e).errsub = errSubCode e := rfl
@[simp] theorem State.raise_recordSet (e : Err) : (s.raise e).recordSet = s.recordSet := rfl
@[simp] theorem State.raise_frameSet (e : Err) : (s.raise e).frameSet = s.frameSet := rfl
@[simp] theorem State.raise_remReadable (e : Err) : (s.raise e).remReadable = s.remReadable := rfl
@[simp] theorem State.raise_nowIn (e : Err) : (s.raise e).nowIn = s.nowIn := rfl
@[simp] theorem State.raise_draws (e : Err) : (s.raise e).draws = s.draws := rfl
@[simp] theorem State.raise_port (e : Err) : (s.raise e).port = s.port := rfl
@[simp] theorem State.raise_result (e : Err) : (s.raise e).result = s.result := rfl

/-! ## `draw` -/

@[simp] theorem State.draw_record : (s.draw).record = s.record := rfl
@[simp] theorem State.draw_frame : (s.draw).frame = s.frame := rfl
@[simp] theorem State.draw_buf : (s.draw).buf = s.buf := rfl
@[simp] theorem State.draw_len : (s.draw).len = s.len := rfl
@[simp] theorem State.draw_cur : (s.draw).cur = s.cur := rfl
@[simp] theorem State.draw_out : (s.draw).out = s.out := rfl
@[simp] theorem State.draw_outn : (s.draw).outn = s.outn := rfl
@[simp] theorem State.draw_fst : (s.draw).fst = s.fst := rfl
@[simp] theorem State.draw_cmd : (s.draw).cmd = s.cmd := rfl
@[simp] theorem State.draw_status : (s.draw).status = s.status := rfl
@[simp] theorem State.draw_err : (s.draw).err = s.err := rfl
@[simp] theorem State.draw_errsub : (s.draw).errsub = s.errsub := rfl
@[simp] theorem State.draw_recordSet : (s.draw).recordSet = s.recordSet := rfl
@[simp] theorem State.draw_frameSet : (s.draw).frameSet = s.frameSet := rfl
@[simp] theorem State.draw_remReadable : (s.draw).remReadable = s.remReadable := rfl
@[simp] theorem State.draw_nowIn : (s.draw).nowIn = s.nowIn.tail := rfl
@[simp] theorem State.draw_draws : (s.draw).draws = s.draws + 1 := rfl
@[simp] theorem State.draw_port : (s.draw).port = s.port := rfl
@[simp] theorem State.draw_result : (s.draw).result = s.result := rfl

/-! ## `startParse` -/

@[simp] theorem State.startParse_record : (s.startParse).record = s.record := rfl
@[simp] theorem State.startParse_frame : (s.startParse).frame = s.frame := rfl
@[simp] theorem State.startParse_buf : (s.startParse).buf = s.buf := rfl
@[simp] theorem State.startParse_len : (s.startParse).len = s.len := rfl
@[simp] theorem State.startParse_cur : (s.startParse).cur = 0 := rfl
@[simp] theorem State.startParse_out : (s.startParse).out = [] := rfl
@[simp] theorem State.startParse_outn : (s.startParse).outn = 0 := rfl
@[simp] theorem State.startParse_fst : (s.startParse).fst = .scan := rfl
@[simp] theorem State.startParse_cmd : (s.startParse).cmd = s.cmd := rfl
@[simp] theorem State.startParse_status : (s.startParse).status = statusStart := rfl
@[simp] theorem State.startParse_err : (s.startParse).err = 0 := rfl
@[simp] theorem State.startParse_errsub : (s.startParse).errsub = 0 := rfl
@[simp] theorem State.startParse_recordSet : (s.startParse).recordSet = s.recordSet := rfl
@[simp] theorem State.startParse_frameSet : (s.startParse).frameSet = s.frameSet := rfl
@[simp] theorem State.startParse_remReadable : (s.startParse).remReadable = false := rfl
@[simp] theorem State.startParse_nowIn : (s.startParse).nowIn = s.nowIn := rfl
@[simp] theorem State.startParse_draws : (s.startParse).draws = s.draws := rfl
@[simp] theorem State.startParse_port : (s.startParse).port = s.port := rfl
@[simp] theorem State.startParse_result : (s.startParse).result = s.result := rfl

/-! ## `discardAll` -/

@[simp] theorem State.discardAll_record : (s.discardAll).record = s.record := rfl
@[simp] theorem State.discardAll_frame : (s.discardAll).frame = s.frame := rfl
@[simp] theorem State.discardAll_buf : (s.discardAll).buf = s.buf := rfl
@[simp] theorem State.discardAll_len : (s.discardAll).len = s.len := rfl
@[simp] theorem State.discardAll_cur : (s.discardAll).cur = s.len := rfl
@[simp] theorem State.discardAll_out : (s.discardAll).out = s.out := rfl
@[simp] theorem State.discardAll_outn : (s.discardAll).outn = s.outn := rfl
@[simp] theorem State.discardAll_fst : (s.discardAll).fst = .done := rfl
@[simp] theorem State.discardAll_cmd : (s.discardAll).cmd = s.cmd := rfl
@[simp] theorem State.discardAll_status : (s.discardAll).status = statusEnd 0 := rfl
@[simp] theorem State.discardAll_err : (s.discardAll).err = 0 := rfl
@[simp] theorem State.discardAll_errsub : (s.discardAll).errsub = 0 := rfl
@[simp] theorem State.discardAll_recordSet : (s.discardAll).recordSet = s.recordSet := rfl
@[simp] theorem State.discardAll_frameSet : (s.discardAll).frameSet = s.frameSet := rfl
@[simp] theorem State.discardAll_remReadable : (s.discardAll).remReadable = true := rfl
@[simp] theorem State.discardAll_nowIn : (s.discardAll).nowIn = s.nowIn := rfl
@[simp] theorem State.discardAll_draws : (s.discardAll).draws = s.draws := rfl
@[simp] theorem State.discardAll_port : (s.discardAll).port = s.port := rfl
@[simp] theorem State.discardAll_result : (s.discardAll).result = s.result := rfl

/-! ## `skipByte` -/

@[simp] theorem State.skipByte_record : (s.skipByte).record = s.record := rfl
@[simp] theorem State.skipByte_frame : (s.skipByte).frame = s.frame := rfl
@[simp] theorem State.skipByte_buf : (s.skipByte).buf = s.buf := rfl
@[simp] theorem State.skipByte_len : (s.skipByte).len = s.len := rfl
@[simp] theorem State.skipByte_cur : (s.skipByte).cur = s.cur + 1 := rfl
@[simp] theorem State.skipByte_out : (s.skipByte).out = s.out := rfl
@[simp] theorem State.skipByte_outn : (s.skipByte).outn = s.outn := rfl
@[simp] theorem State.skipByte_fst : (s.skipByte).fst = .scan := rfl
@[simp] theorem State.skipByte_cmd : (s.skipByte).cmd = s.cmd := rfl
@[simp] theorem State.skipByte_status : (s.skipByte).status = s.status := rfl
@[simp] theorem State.skipByte_err : (s.skipByte).err = s.err := rfl
@[simp] theorem State.skipByte_errsub : (s.skipByte).errsub = s.errsub := rfl
@[simp] theorem State.skipByte_recordSet : (s.skipByte).recordSet = s.recordSet := rfl
@[simp] theorem State.skipByte_frameSet : (s.skipByte).frameSet = s.frameSet := rfl
@[simp] theorem State.skipByte_remReadable : (s.skipByte).remReadable = s.remReadable := rfl
@[simp] theorem State.skipByte_nowIn : (s.skipByte).nowIn = s.nowIn := rfl
@[simp] theorem State.skipByte_draws : (s.skipByte).draws = s.draws := rfl
@[simp] theorem State.skipByte_port : (s.skipByte).port = s.port := rfl
@[simp] theorem State.skipByte_result : (s.skipByte).result = s.result := rfl

/-! ## `keepRest` -/

@[simp] theorem State.keepRest_record : (s.keepRest).record = s.record := rfl
@[simp] theorem State.keepRest_frame : (s.keepRest).frame = s.frame := rfl
@[simp] theorem State.keepRest_buf : (s.keepRest).buf = s.buf := rfl
@[simp] theorem State.keepRest_len : (s.keepRest).len = s.len := rfl
@[simp] theorem State.keepRest_cur : (s.keepRest).cur = s.cur := rfl
@[simp] theorem State.keepRest_out : (s.keepRest).out = s.out := rfl
@[simp] theorem State.keepRest_outn : (s.keepRest).outn = s.outn := rfl
@[simp] theorem State.keepRest_fst : (s.keepRest).fst = .done := rfl
@[simp] theorem State.keepRest_cmd : (s.keepRest).cmd = s.cmd := rfl
@[simp] theorem State.keepRest_status : (s.keepRest).status = statusEnd 0 := rfl
@[simp] theorem State.keepRest_err : (s.keepRest).err = 0 := rfl
@[simp] theorem State.keepRest_errsub : (s.keepRest).errsub = 0 := rfl
@[simp] theorem State.keepRest_recordSet : (s.keepRest).recordSet = s.recordSet := rfl
@[simp] theorem State.keepRest_frameSet : (s.keepRest).frameSet = s.frameSet := rfl
@[simp] theorem State.keepRest_remReadable : (s.keepRest).remReadable = true := rfl
@[simp] theorem State.keepRest_nowIn : (s.keepRest).nowIn = s.nowIn := rfl
@[simp] theorem State.keepRest_draws : (s.keepRest).draws = s.draws := rfl
@[simp] theorem State.keepRest_port : (s.keepRest).port = s.port := rfl
@[simp] theorem State.keepRest_result : (s.keepRest).result = s.result := rfl

/-! ## `accept` -/

@[simp] theorem State.accept_record (x : Record) : (s.accept x).record = s.record := rfl
@[simp] theorem State.accept_frame (x : Record) : (s.accept x).frame = s.frame := rfl
@[simp] theorem State.accept_buf (x : Record) : (s.accept x).buf = s.buf := rfl
@[simp] theorem State.accept_len (x : Record) : (s.accept x).len = s.len := rfl
@[simp] theorem State.accept_cur (x : Record) : (s.accept x).cur = s.cur + Config.msgLen := rfl
@[simp] theorem State.accept_out (x : Record) : (s.accept x).out = s.out ++ [x] := rfl
@[simp] theorem State.accept_outn (x : Record) : (s.accept x).outn = s.outn + 1 := rfl
@[simp] theorem State.accept_fst (x : Record) : (s.accept x).fst = .scan := rfl
@[simp] theorem State.accept_cmd (x : Record) : (s.accept x).cmd = s.cmd := rfl
@[simp] theorem State.accept_status (x : Record) : (s.accept x).status = s.status := rfl
@[simp] theorem State.accept_err (x : Record) : (s.accept x).err = s.err := rfl
@[simp] theorem State.accept_errsub (x : Record) : (s.accept x).errsub = s.errsub := rfl
@[simp] theorem State.accept_recordSet (x : Record) : (s.accept x).recordSet = s.recordSet := rfl
@[simp] theorem State.accept_frameSet (x : Record) : (s.accept x).frameSet = s.frameSet := rfl
@[simp] theorem State.accept_remReadable (x : Record) : (s.accept x).remReadable = s.remReadable := rfl
@[simp] theorem State.accept_nowIn (x : Record) : (s.accept x).nowIn = s.nowIn := rfl
@[simp] theorem State.accept_draws (x : Record) : (s.accept x).draws = s.draws := rfl
@[simp] theorem State.accept_port (x : Record) : (s.accept x).port = s.port := rfl
@[simp] theorem State.accept_result (x : Record) : (s.accept x).result = s.result := rfl

/-! ## `clearPort` -/

@[simp] theorem State.clearPort_record : (s.clearPort).record = s.record := rfl
@[simp] theorem State.clearPort_frame : (s.clearPort).frame = s.frame := rfl
@[simp] theorem State.clearPort_buf : (s.clearPort).buf = s.buf := rfl
@[simp] theorem State.clearPort_len : (s.clearPort).len = s.len := rfl
@[simp] theorem State.clearPort_cur : (s.clearPort).cur = s.cur := rfl
@[simp] theorem State.clearPort_out : (s.clearPort).out = s.out := rfl
@[simp] theorem State.clearPort_outn : (s.clearPort).outn = s.outn := rfl
@[simp] theorem State.clearPort_fst : (s.clearPort).fst = s.fst := rfl
@[simp] theorem State.clearPort_cmd : (s.clearPort).cmd = s.cmd := rfl
/-- For a command that stood at the port the block is handed over as idle (10_state.md R45, R46). -/
theorem State.clearPort_status : (s.clearPort).status =
    if s.port = .command ∧ s.busy = true then 0 else s.status := rfl
@[simp] theorem State.clearPort_err : (s.clearPort).err = s.err := rfl
@[simp] theorem State.clearPort_errsub : (s.clearPort).errsub = s.errsub := rfl
@[simp] theorem State.clearPort_recordSet : (s.clearPort).recordSet = s.recordSet := rfl
@[simp] theorem State.clearPort_frameSet : (s.clearPort).frameSet = s.frameSet := rfl
@[simp] theorem State.clearPort_remReadable : (s.clearPort).remReadable = s.remReadable := rfl
@[simp] theorem State.clearPort_nowIn : (s.clearPort).nowIn = s.nowIn := rfl
@[simp] theorem State.clearPort_draws : (s.clearPort).draws = s.draws := rfl
@[simp] theorem State.clearPort_port : (s.clearPort).port = .empty := rfl
@[simp] theorem State.clearPort_result : (s.clearPort).result = s.result := rfl

/-! ## `busy` after the updates that write `STATUS` -/

@[simp] theorem statusBusy_start : statusBusy statusStart = true := by decide
@[simp] theorem statusDone_start : statusDone statusStart = false := by decide
@[simp] theorem statusErr_start : statusErr statusStart = false := by decide

/-- No value `STATUS` takes at the end of a command has `busy` set (R46). -/
@[simp] theorem statusBusy_end (e : BitVec 3) : statusBusy (statusEnd e) = false := by
  unfold statusEnd; split <;> decide

/-- At the end of a command `done` is set (R46). -/
@[simp] theorem statusDone_end (e : BitVec 3) : statusDone (statusEnd e) = true := by
  unfold statusEnd; split <;> decide

@[simp] theorem State.beginCommand_busy : s.beginCommand.busy = true := statusBusy_start
@[simp] theorem State.startParse_busy : s.startParse.busy = true := statusBusy_start
@[simp] theorem State.endOk_busy : s.endOk.busy = false := statusBusy_end 0
@[simp] theorem State.discardAll_busy : s.discardAll.busy = false := statusBusy_end 0
@[simp] theorem State.keepRest_busy : s.keepRest.busy = false := statusBusy_end 0
@[simp] theorem State.raise_busy (e : Err) : (s.raise e).busy = false := statusBusy_end (errCode e)

@[simp] theorem State.setRecord_busy (r : Record) : (s.setRecord r).busy = s.busy := rfl
@[simp] theorem State.setFrame_busy (F : Frame) : (s.setFrame F).busy = s.busy := rfl
@[simp] theorem State.returns_busy (r : Result) : (s.returns r).busy = s.busy := rfl
@[simp] theorem State.draw_busy : s.draw.busy = s.busy := rfl
@[simp] theorem State.skipByte_busy : s.skipByte.busy = s.busy := rfl
@[simp] theorem State.accept_busy (x : Record) : (s.accept x).busy = s.busy := rfl

/-- A command that stood at the port runs on an idle block. -/
theorem State.clearPort_busy_command (h : s.port = .command) : s.clearPort.busy = false := by
  unfold State.busy
  rw [State.clearPort_status]
  split
  · decide
  · rename_i hn
    exact Bool.eq_false_iff.2 fun hb => hn ⟨h, hb⟩

/-- Any other taken word or call finds the block as it was. -/
theorem State.clearPort_busy_other (h : s.port ≠ .command) : s.clearPort.busy = s.busy := by
  simp [State.busy, State.clearPort_status, h]

/-! ## The `now` input -/

/-- After one draw, the k-th value is the one that was the (k+1)-th. -/
@[simp] theorem State.nowAt_draw (k : Nat) : s.draw.nowAt k = s.nowAt (k + 1) := by
  cases h : s.nowIn <;> simp [State.nowAt, h, Nat.add_comm, Nat.add_left_comm]

/-- What the host has put on the input is drawn first. -/
theorem State.nowAt_zero_cons (n : Time) (ns : List Time) (h : s.nowIn = n :: ns) : s.nowAt 0 = n := by
  simp [State.nowAt, h]

/-- Past what the host has put on the input, a draw takes a free value. -/
theorem State.nowAt_empty (k : Nat) (h : s.nowIn = []) :
    s.nowAt k = Config.freeNow (s.draws + k) := by simp [State.nowAt, h]

end Sys2Proof.Machine
end

