-- ==== Sys2Proof/Laws/Memory.lean ====
section
/-! SUPPORT. The laws of `BUF`: a read after a write, the canonical form kept by every write, and
what a range read and a range write do (10_state.md R54; 20_memory.md R72, R73). -/

namespace Sys2Proof.Machine

/-- A byte read where it was just written is the byte written. -/
@[simp] theorem Memory.read_write_same (m : Memory) (a : Nat) (v : Byte) :
    (m.write a v).read a = some v := by
  induction m with
  | nil => simp [Memory.write, Memory.read]
  | cons c rest ih =>
    obtain ⟨b, w⟩ := c
    simp only [Memory.write]
    split
    · simp [Memory.read]
    · split
      · simp [Memory.read]
      · rename_i h1 h2
        simp [Memory.read, ih, Ne.symm h2]

/-- A write leaves every other index alone. -/
theorem Memory.read_write_other (m : Memory) (a a' : Nat) (v : Byte) (h : a' ≠ a) :
    (m.write a v).read a' = m.read a' := by
  induction m with
  | nil => simp [Memory.write, Memory.read, Ne.symm h]
  | cons c rest ih =>
    obtain ⟨b, w⟩ := c
    simp only [Memory.write]
    split
    · simp [Memory.read, Ne.symm h]
    · split
      · rename_i h1 h2
        subst h2
        simp [Memory.read, Ne.symm h]
      · simp only [Memory.read]
        split
        · rfl
        · exact ih

/-- A smaller lower bound on the indices holds as well. -/
theorem Memory.risesFrom_mono (m : Memory) {a a' : Nat} (h : a' ≤ a) (hm : m.risesFrom a = true) :
    m.risesFrom a' = true := by
  cases m with
  | nil => rfl
  | cons c rest =>
    obtain ⟨b, w⟩ := c
    simp only [Memory.risesFrom, Bool.and_eq_true, decide_eq_true_eq] at hm ⊢
    exact ⟨h.trans hm.1, hm.2⟩

/-- A write at or above the lower bound keeps the indices rising from it. -/
theorem Memory.risesFrom_write (m : Memory) (a k : Nat) (v : Byte) (hk : k ≤ a)
    (hm : m.risesFrom k = true) : (m.write a v).risesFrom k = true := by
  induction m generalizing k with
  | nil => simp [Memory.write, Memory.risesFrom, hk]
  | cons c rest ih =>
    obtain ⟨b, w⟩ := c
    simp only [Memory.risesFrom, Bool.and_eq_true, decide_eq_true_eq] at hm
    simp only [Memory.write]
    split
    · rename_i h
      simp [Memory.risesFrom, hk, hm.2, h]
    · split
      · rename_i h1 h2
        subst h2
        simp [Memory.risesFrom, hk, hm.2]
      · rename_i h1 h2
        simp only [Memory.risesFrom, Bool.and_eq_true, decide_eq_true_eq]
        exact ⟨hm.1, ih (b + 1) (by omega) hm.2⟩

/-- A write keeps the canonical form. -/
theorem Memory.write_wf (m : Memory) (a : Nat) (v : Byte) (hm : m.wf = true) :
    (m.write a v).wf = true := Memory.risesFrom_write m a 0 v (Nat.zero_le a) hm

/-- A range write keeps the canonical form. -/
theorem Memory.writeRange_wf (m : Memory) (a : Nat) (vs : List Byte) (hm : m.wf = true) :
    (m.writeRange a vs).wf = true := by
  induction vs generalizing m a with
  | nil => exact hm
  | cons v vs ih => exact ih (m.write a v) (a + 1) (Memory.write_wf m a v hm)

/-- `BUF` after reset is in the canonical form. -/
theorem Memory.reset_wf : State.reset.buf.wf = true := rfl

/-- A range write leaves every index below it alone. -/
theorem Memory.read_writeRange_below (m : Memory) (a a' : Nat) (vs : List Byte) (h : a' < a) :
    (m.writeRange a vs).read a' = m.read a' := by
  induction vs generalizing m a with
  | nil => rfl
  | cons v vs ih =>
    rw [Memory.writeRange, ih (m.write a v) (a + 1) (by omega),
      Memory.read_write_other m a a' v (by omega)]

/-- A range read gives as many bytes as it was asked for. -/
theorem Memory.readRange_length (m : Memory) (a n : Nat) (bs : List Byte)
    (h : m.readRange a n = some bs) : bs.length = n := by
  induction n generalizing a bs with
  | zero => simp only [Memory.readRange, Option.some.injEq] at h; simp [← h]
  | succ n ih =>
    simp only [Memory.readRange] at h
    split at h
    · rename_i b cs h1 h2
      simp only [Option.some.injEq] at h
      simp [← h, ih (a + 1) cs h2]
    · cases h

/-- What a range read that succeeds says of each byte. -/
theorem Memory.readRange_get (m : Memory) (a n : Nat) (bs : List Byte)
    (h : m.readRange a n = some bs) (i : Nat) (hi : i < n) : m.read (a + i) = bs[i]? := by
  induction n generalizing a bs i with
  | zero => omega
  | succ n ih =>
    simp only [Memory.readRange] at h
    split at h
    · rename_i b cs h1 h2
      simp only [Option.some.injEq] at h
      subst h
      cases i with
      | zero => simpa using h1
      | succ i =>
        have := ih (a + 1) cs h2 i (by omega)
        rw [show a + (i + 1) = a + 1 + i by omega, this, List.getElem?_cons_succ]
    · cases h

/-- A range read succeeds exactly where every byte has been written. -/
theorem Memory.readRange_isSome (m : Memory) (a n : Nat) :
    (m.readRange a n).isSome = true ↔ ∀ i < n, (m.read (a + i)).isSome = true := by
  induction n generalizing a with
  | zero => simp [Memory.readRange]
  | succ n ih =>
    have e : (m.readRange a (n + 1)).isSome = true ↔
        (m.read a).isSome = true ∧ (m.readRange (a + 1) n).isSome = true := by
      simp only [Memory.readRange]
      cases m.read a <;> cases m.readRange (a + 1) n <;> simp
    rw [e, ih]
    constructor
    · rintro ⟨h0, h⟩ i hi
      cases i with
      | zero => exact h0
      | succ i => have := h i (by omega); rwa [show a + (i + 1) = a + 1 + i by omega]
    · intro h
      refine ⟨h 0 (by omega), fun i hi => ?_⟩
      have := h (i + 1) (by omega)
      rwa [show a + 1 + i = a + (i + 1) by omega]

/-- A part of a range that reads reads as the part of its bytes. -/
theorem Memory.readRange_part (m : Memory) (a n k j : Nat) (bs : List Byte)
    (h : m.readRange a n = some bs) (hk : k + j ≤ n) :
    m.readRange (a + k) j = some ((bs.drop k).take j) := by
  have hs : (m.readRange (a + k) j).isSome = true := by
    rw [Memory.readRange_isSome]
    intro i hi
    have := (Memory.readRange_isSome m a n).1 (by simp [h]) (k + i) (by omega)
    rwa [show a + k + i = a + (k + i) by omega]
  obtain ⟨cs, hc⟩ := Option.isSome_iff_exists.1 hs
  rw [hc, Option.some.injEq]
  have hl := Memory.readRange_length m a n bs h
  have hlc := Memory.readRange_length m (a + k) j cs hc
  apply List.ext_getElem?
  intro i
  by_cases hi : i < j
  · have h1 := Memory.readRange_get m (a + k) j cs hc i hi
    have h2 := Memory.readRange_get m a n bs h (k + i) (by omega)
    rw [← h1, show a + k + i = a + (k + i) by omega, h2]
    simp [hi, List.getElem?_drop]
  · rw [List.getElem?_eq_none (by omega), List.getElem?_eq_none]
    simp only [List.length_take, List.length_drop]
    omega

/-- What `MemRead` can give: the bytes of a written range below `LEN`; or the range passes `LEN`; or
one of its bytes has not been written. -/
theorem State.memRead_cases (s : State) (a n : Nat) :
    (∃ bs, s.memRead a n = .bytes bs ∧ a + n ≤ s.len ∧ s.buf.readRange a n = some bs ∧
        bs.length = n) ∨
      (s.memRead a n = .beyondLen ∧ s.len < a + n) ∨
      (s.memRead a n = .noValue ∧ a + n ≤ s.len ∧ s.buf.readRange a n = none) := by
  unfold State.memRead
  by_cases h : a + n ≤ s.len
  · cases hr : s.buf.readRange a n with
    | none => exact .inr (.inr ⟨by simp [h], h, rfl⟩)
    | some bs =>
      exact .inl ⟨bs, by simp [h], h, rfl, Memory.readRange_length _ _ _ _ hr⟩
  · exact .inr (.inl ⟨by simp [h], by omega⟩)

end Sys2Proof.Machine
end

