-- ==== Sys2Proof/Laws/Framer.lean ====
section
/-! SUPPORT. What an operation and a step can do, said once (45_stream_framer.md R249 to R256;
44_message_codec.md R226, R227). Later proofs cite these and do not unfold `exec` or `step`. -/

namespace Sys2Proof.Machine

/-- What `ENCODE` does when it answers a state. -/
theorem execCmdEncode_next (s t : State) (h : execCmdEncode s = .next t) :
    (s.busy = true ∧ t = s) ∨
      (s.busy = false ∧ s.encodeReady = true ∧
        ((∃ F, encodeMessage (observationOf s.record) = .ok F ∧
            t = (s.beginCommand.setFrame F).endOk) ∨
          ∃ e, encodeMessage (observationOf s.record) = .error e ∧ t = s.beginCommand.raise e)) := by
  unfold execCmdEncode at h
  split at h
  · exact .inl ⟨‹_›, by simpa using h.symm⟩
  · rename_i hb
    split at h
    · rename_i hr
      refine .inr ⟨by simpa using hb, hr, ?_⟩
      split at h
      · rename_i F hF
        exact .inl ⟨F, hF, by simpa using h.symm⟩
      · rename_i e he
        exact .inr ⟨e, he, by simpa using h.symm⟩
    · cases h

/-- What `DECODE` does when it answers a state. -/
theorem execCmdDecode_next (s t : State) (h : execCmdDecode s = .next t) :
    (s.busy = true ∧ t = s) ∨
      (s.busy = false ∧ s.decodeReady = true ∧
        ((∃ r, decodeMessage s.frame.toList (s.nowAt 0) = .ok r ∧
            t = (s.beginCommand.draw.setRecord r).endOk) ∨
          ∃ e, decodeMessage s.frame.toList (s.nowAt 0) = .error e ∧
            t = s.beginCommand.raise e)) := by
  unfold execCmdDecode at h
  split at h
  · exact .inl ⟨‹_›, by simpa using h.symm⟩
  · rename_i hb
    split at h
    · rename_i hr
      refine .inr ⟨by simpa using hb, hr, ?_⟩
      split at h
      · rename_i r hr'
        exact .inl ⟨r, hr', by simpa using h.symm⟩
      · rename_i e he
        exact .inr ⟨e, he, by simpa using h.symm⟩
    · cases h

/-- What `PARSE` does. -/
theorem execCmdParse_next (s t : State) (h : execCmdParse s = .next t) :
    (s.busy = true ∧ t = s) ∨ (s.busy = false ∧ t = s.startParse) := by
  unfold execCmdParse at h
  split at h
  · exact .inl ⟨‹_›, by simpa using h.symm⟩
  · rename_i hb
    exact .inr ⟨by simpa using hb, by simpa using h.symm⟩

/-- What an accepted frame does. -/
theorem execFrame18_next (f : FrameFields) (s t : State) (h : execFrame18 f s = .next t) :
    (s.inTry = true ∧ t = s.draw.accept (recordOf f (s.nowAt 0))) ∨
      (s.inTry = false ∧ t = s.draw.returns (.observation (recordOf f (s.nowAt 0)))) := by
  unfold execFrame18 at h
  split at h
  · exact .inl ⟨‹_›, by simpa using h.symm⟩
  · rename_i hb
    exact .inr ⟨by simpa using hb, by simpa [State.answer] using h.symm⟩

/-- Everything an operation can do when it answers a state: a level-F result; an accepted frame; one
of the commands on an idle block; or nothing at all. -/
theorem exec_next (i : Instr) (s t : State) (h : exec i s = .next t) :
    (∃ r, t = s.returns r) ∨ t = s ∨ (∃ f, i = .frame18 f ∧ execFrame18 f s = .next t) ∨
      (s.busy = false ∧ i = .cmdEncode ∧ execCmdEncode s = .next t) ∨
      (s.busy = false ∧ i = .cmdDecode ∧ execCmdDecode s = .next t) ∨
      (s.busy = false ∧ i = .cmdParse ∧ t = s.startParse) := by
  cases i with
  | frame18 f => exact .inr (.inr (.inl ⟨f, rfl, h⟩))
  | cmdNop => exact .inr (.inl (by simpa [exec, execCmdNop] using h.symm))
  | cmdEncode =>
    rcases execCmdEncode_next s t h with ⟨_, ht⟩ | ⟨hb, _⟩
    · exact .inr (.inl ht)
    · exact .inr (.inr (.inr (.inl ⟨hb, rfl, h⟩)))
  | cmdDecode =>
    rcases execCmdDecode_next s t h with ⟨_, ht⟩ | ⟨hb, _⟩
    · exact .inr (.inl ht)
    · exact .inr (.inr (.inr (.inr (.inl ⟨hb, rfl, h⟩))))
  | cmdParse =>
    rcases execCmdParse_next s t h with ⟨_, ht⟩ | ⟨hb, ht⟩
    · exact .inr (.inl ht)
    · exact .inr (.inr (.inr (.inr (.inr ⟨hb, rfl, ht⟩))))
  | _ => exact .inl ⟨_, (Host.Outcome.next.inj h).symm⟩

/-- What a `SCAN` step does when it answers a state (R250, R251). -/
theorem scanStep_next (s t : State) (h : scanStep s = .next t) :
    (s.len < s.cur + 2 ∧ t = s.discardAll) ∨
      (∃ bs, s.cur + 2 ≤ s.len ∧ s.buf.readRange s.cur 2 = some bs ∧
        ((eq2 bs 0 Config.hdr0 Config.hdr1 = true ∧ t = { s with fst := .lenchk }) ∨
          (eq2 bs 0 Config.hdr0 Config.hdr1 = false ∧ t = s.skipByte))) := by
  unfold scanStep at h
  split at h
  · exact .inl ⟨‹_›, by simpa using h.symm⟩
  · rename_i hl
    rcases s.memRead_cases s.cur 2 with ⟨bs, hm, hle, hr, _⟩ | ⟨hm, _⟩ | ⟨hm, _, _⟩
    · simp only [hm] at h
      refine .inr ⟨bs, by omega, hr, ?_⟩
      split at h
      · exact .inl ⟨‹_›, by simpa using h.symm⟩
      · rename_i he
        exact .inr ⟨by simpa using he, by simpa using h.symm⟩
    · simp [hm] at h
    · simp [hm] at h

/-- What a `LENCHK` step does (R252). -/
theorem lenchkStep_next (s t : State) (h : lenchkStep s = .next t) :
    (18 ≤ s.len - s.cur ∧ t = { s with fst := .tryWin }) ∨ (s.len - s.cur < 18 ∧ t = s.keepRest) := by
  unfold lenchkStep at h
  split at h
  · exact .inl ⟨‹_›, by simpa using h.symm⟩
  · rename_i hl
    exact .inr ⟨by simpa [Config.msgLen] using hl, by simpa using h.symm⟩

/-- The decoder on a frame. -/
theorem decode_frame_ok (w : List Byte) (i : Instr) (h : decode (.frame w) = .ok i) :
    ∃ f, decodeFrame w = .ok f ∧ i = .frame18 f := by
  simp only [decode] at h
  split at h
  · rename_i f hf
    exact ⟨f, hf, by simpa using h.symm⟩
  · cases h

theorem decode_frame_error (w : List Byte) (e : DecodeError) (h : decode (.frame w) = .error e) :
    ∃ e', decodeFrame w = .error e' ∧ e = .codec e' := by
  simp only [decode] at h
  split at h
  · cases h
  · rename_i e' he
    exact ⟨e', he, by simpa using h.symm⟩

/-- Everything a step can do when it answers a state. -/
theorem step_next (s t : State) (h : step s = .next t) :
    (∃ i, decodePort s = some (.ok i) ∧ exec i s.clearPort = .next t) ∨
      (∃ e, decodePort s = some (.error e) ∧ t = s.clearPort.returns (rejectedResult e)) ∨
      (decodePort s = none ∧ s.busy = false ∧ t = s) ∨
      (decodePort s = none ∧ s.busy = true ∧ s.fst = .scan ∧ scanStep s = .next t) ∨
      (decodePort s = none ∧ s.busy = true ∧ s.fst = .lenchk ∧ lenchkStep s = .next t) ∨
      (decodePort s = none ∧ s.busy = true ∧ s.fst = .tryWin ∧ s.cur + 18 ≤ s.len ∧
        ∃ w, s.buf.readRange s.cur 18 = some w ∧
          ((∃ f, decodeFrame w = .ok f ∧ t = s.draw.accept (recordOf f (s.nowAt 0))) ∨
            ∃ e, decodeFrame w = .error e ∧ t = s.skipByte)) := by
  unfold step fetch at h
  cases hp : decodePort s with
  | some d =>
    cases d with
    | ok i => simp only [hp] at h; exact .inl ⟨i, rfl, h⟩
    | error e =>
      simp only [hp] at h
      exact .inr (.inl ⟨e, rfl, by simpa [State.answer] using h.symm⟩)
  | none =>
    simp only [hp] at h
    by_cases hb : s.busy = true
    · simp only [hb, if_true, fetchFramer] at h
      cases hf : s.fst with
      | idle => simp [hf] at h
      | done => simp [hf] at h
      | scan =>
        simp only [hf] at h
        exact .inr (.inr (.inr (.inl ⟨rfl, hb, rfl, h⟩)))
      | lenchk =>
        simp only [hf] at h
        exact .inr (.inr (.inr (.inr (.inl ⟨rfl, hb, rfl, h⟩))))
      | tryWin =>
        simp only [hf, fetchWindow] at h
        rcases s.memRead_cases s.cur Config.msgLen with ⟨w, hm, hle, hr, _⟩ | ⟨hm, _⟩ | ⟨hm, _, _⟩
        · refine .inr (.inr (.inr (.inr (.inr ⟨rfl, hb, rfl, hle, w, hr, ?_⟩))))
          simp only [hm] at h
          cases hd : decode (.frame w) with
          | ok i =>
            obtain ⟨f, hf', rfl⟩ := decode_frame_ok w i hd
            simp only [hd] at h
            rcases execFrame18_next f s t h with ⟨_, ht⟩ | ⟨hn, _⟩
            · exact .inl ⟨f, hf', ht⟩
            · simp [State.inTry, hb, hf] at hn
          | error e =>
            obtain ⟨e', he, rfl⟩ := decode_frame_error w e hd
            simp only [hd] at h
            exact .inr ⟨e', he, by simpa using h.symm⟩
        · simp [hm] at h
        · simp [hm] at h
    · simp only [hb] at h
      exact .inr (.inr (.inl ⟨rfl, by simpa using hb, by simpa using h.symm⟩))

/-- Nothing is presented exactly when the port is empty. -/
theorem decodePort_none_iff (s : State) : decodePort s = none ↔ s.port = .empty := by
  unfold decodePort; cases s.port <;> simp

end Sys2Proof.Machine
end

