-- ==== Sys2Proof/Laws/Host.lean ====
section
/-! SUPPORT. What the host's acts can do, said once (10_state.md R45, R49, R52; 20_memory.md R73, R82):
later proofs cite these and do not unfold the acts. -/

namespace Sys2Proof.Machine

/-- Every capacity is at least 18 bytes (00_scope.md R8). -/
theorem withinCap_of_le_18 (n : Nat) (h : n ≤ 18) : withinCap n = true := by
  unfold withinCap fitsIn
  split
  · rfl
  · exact decide_eq_true (by omega)

/-- What is shorter than something that fits fits. -/
theorem withinCap_mono {n m : Nat} (h : n ≤ m) (hm : withinCap m = true) : withinCap n = true := by
  unfold withinCap fitsIn at *
  split at hm
  · rfl
  · exact decide_eq_true (h.trans (of_decide_eq_true hm))

variable (s : State)

@[simp] theorem State.whenIdle_busy (t : State) (h : s.busy = true) : s.whenIdle t = s := by
  simp [State.whenIdle, h]

@[simp] theorem State.whenIdle_idle (t : State) (h : s.busy = false) : s.whenIdle t = t := by
  simp [State.whenIdle, h]

@[simp] theorem State.readIdle_busy {α : Type} (v : Option α) (h : s.busy = true) :
    s.readIdle v = none := by simp [State.readIdle, h]

@[simp] theorem State.readIdle_idle {α : Type} (v : Option α) (h : s.busy = false) :
    s.readIdle v = v := by simp [State.readIdle, h]

/-- Everything a write of `CMD` can do (R45, R249). -/
theorem State.writeCmd_cases (c : BitVec 2) :
    ((s.busy = true ∨ c = 0) ∧ s.writeCmd c = s) ∨
      (s.busy = false ∧ c = 3 ∧
        s.writeCmd c = { s.startParse with cmd := 3, port := .empty }) ∨
      (s.busy = false ∧ (c = 1 ∨ c = 2) ∧
        s.writeCmd c = { s.beginCommand with cmd := c, port := .command }) := by
  unfold State.writeCmd
  by_cases hb : s.busy = true
  · exact .inl ⟨.inl hb, s.whenIdle_busy _ hb⟩
  · rw [s.whenIdle_idle _ (Bool.eq_false_iff.2 hb)]
    unfold State.startCommand
    by_cases h0 : c = 0
    · exact .inl ⟨.inr h0, if_pos h0⟩
    · rw [if_neg h0]
      by_cases h3 : c = 3
      · exact .inr (.inl ⟨Bool.eq_false_iff.2 hb, h3, by rw [if_pos h3, h3]⟩)
      · refine .inr (.inr ⟨Bool.eq_false_iff.2 hb, ?_, if_neg h3⟩)
        revert h0 h3 c
        decide

/-- Everything a write of `BUF` can do (R73). -/
theorem State.memWrite_cases (addr : Nat) (v : List Byte) :
    s.memWrite addr v = s ∨
      (s.busy = false ∧ withinCap (addr + v.length) = true ∧
        s.memWrite addr v = { s with buf := s.buf.writeRange addr v, remReadable := false }) := by
  unfold State.memWrite
  by_cases hb : s.busy = true
  · exact .inl (s.whenIdle_busy _ hb)
  · rw [s.whenIdle_idle _ (Bool.eq_false_iff.2 hb)]
    split
    · exact .inr ⟨Bool.eq_false_iff.2 hb, ‹_›, rfl⟩
    · exact .inl rfl

/-- A write of `BUF` to an idle block that fits (R73). -/
theorem State.memWrite_idle (addr : Nat) (v : List Byte) (hb : s.busy = false)
    (hf : withinCap (addr + v.length) = true) :
    s.memWrite addr v = { s with buf := s.buf.writeRange addr v, remReadable := false } := by
  rw [State.memWrite, s.whenIdle_idle _ hb, if_pos hf]

/-- A remainder that is no longer readable has no value (10_state.md R52). -/
theorem State.remainder_unreadable (h : s.remReadable = false) : s.remainder = none := by
  simp [State.remainder, State.readIdle, h]

/-- Everything a write of `LEN` can do (R49). -/
theorem State.writeLen_cases (n : Nat) :
    s.writeLen n = s ∨
      (s.busy = false ∧ withinCap n = true ∧
        s.writeLen n = { s with len := n, remReadable := false }) := by
  unfold State.writeLen
  by_cases hb : s.busy = true
  · exact .inl (s.whenIdle_busy _ hb)
  · rw [s.whenIdle_idle _ (Bool.eq_false_iff.2 hb)]
    split
    · exact .inr ⟨Bool.eq_false_iff.2 hb, ‹_›, rfl⟩
    · exact .inl rfl

end Sys2Proof.Machine
end

