-- ==== Sys2Proof/Laws/PerInstr.lean ====
section
/-! SUPPORT. Facts about every operation as syntax, one lemma per constructor of `Instr`. -/

namespace Sys2Proof.Laws.WireWidth

/-- How many bytes the word of an operation has: 18 for `FRAME18`, one for the other rows that have a
word (30_encoding.md R100, R116). -/
def rowBytes : Instr → Nat
  | .frame18 _ => 18
  | _ => 1

/-- The word of an operation, if it has one, has the number of bytes of its format. -/
def Statement (i : Instr) : Prop := ∀ w, encode i = some w → w.bytes.length = rowBytes i

theorem frame18 (f : FrameFields) : Statement (.frame18 f) := by
  intro w h
  cases h
  rfl

theorem unitC (high : BitVec 4) : Statement (.unitC high) := by
  intro w h; cases h; rfl

theorem unitF (high : BitVec 4) : Statement (.unitF high) := by
  intro w h; cases h; rfl

theorem unitK (high : BitVec 4) : Statement (.unitK high) := by
  intro w h; cases h; rfl

theorem tcK (high : BitVec 4) : Statement (.tcK high) := by
  intro w h; cases h; rfl

theorem tcJ (high : BitVec 4) : Statement (.tcJ high) := by
  intro w h; cases h; rfl

theorem tcT (high : BitVec 4) : Statement (.tcT high) := by
  intro w h; cases h; rfl

theorem tcE (high : BitVec 4) : Statement (.tcE high) := by
  intro w h; cases h; rfl

theorem tcR (high : BitVec 4) : Statement (.tcR high) := by
  intro w h; cases h; rfl

theorem tcS (high : BitVec 4) : Statement (.tcS high) := by
  intro w h; cases h; rfl

theorem tcN (high : BitVec 4) : Statement (.tcN high) := by
  intro w h; cases h; rfl

theorem flagValid (high : BitVec 4) (low : BitVec 3) : Statement (.flagValid high low) := by
  intro w h; cases h; rfl

theorem flagInvalid (b7 : BitVec 1) (mid : BitVec 2) (low : BitVec 3) : Statement (.flagInvalid b7 mid low) := by
  intro w h; cases h; rfl

theorem cmdNop : Statement .cmdNop := by
  intro w h; cases h; rfl

theorem cmdEncode : Statement .cmdEncode := by
  intro w h; cases h; rfl

theorem cmdDecode : Statement .cmdDecode := by
  intro w h; cases h; rfl

theorem cmdParse : Statement .cmdParse := by
  intro w h; cases h; rfl

theorem getU8 (F : Frame) (o : Fin 18) : Statement (.getU8 F o) := by
  intro w h; cases h

theorem getU16BE (F : Frame) (o : Fin 17) : Statement (.getU16BE F o) := by
  intro w h; cases h

theorem getU16LE (F : Frame) (o : Fin 17) : Statement (.getU16LE F o) := by
  intro w h; cases h

theorem getS16BE (F : Frame) (o : Fin 17) : Statement (.getS16BE F o) := by
  intro w h; cases h

theorem putU8 (F : Frame) (o : Fin 18) (v : Byte) : Statement (.putU8 F o v) := by
  intro w h; cases h

theorem putS16BE (F : Frame) (o : Fin 17) (k : Int) : Statement (.putS16BE F o k) := by
  intro w h; cases h

theorem putS16LE (F : Frame) (o : Fin 17) (k : Int) : Statement (.putS16LE F o k) := by
  intro w h; cases h

theorem lowNibble (b : Byte) : Statement (.lowNibble b) := by
  intro w h; cases h

theorem testBit (b : Byte) (m : FlagMask) : Statement (.testBit b m) := by
  intro w h; cases h

theorem eq2 (S : List Byte) (i : Nat) (c0 c1 : Byte) : Statement (.eq2 S i c0 c1) := by
  intro w h; cases h

theorem decUnit (b : Byte) : Statement (.decUnit b) := by
  intro w h; cases h

theorem encTc (tc : ThermocoupleType) : Statement (.encTc tc) := by
  intro w h; cases h

theorem encUnit (u : TemperatureUnit) : Statement (.encUnit u) := by
  intro w h; cases h

theorem decTc (b : Byte) : Statement (.decTc b) := by
  intro w h; cases h

theorem tenthsOf (v : F64) : Statement (.tenthsOf v) := by
  intro w h; cases h

theorem packTemp (t : F64) : Statement (.packTemp t) := by
  intro w h; cases h

theorem unpackTemp (k : Int) (fl : Byte) : Statement (.unpackTemp k fl) := by
  intro w h; cases h

theorem wholeSeconds (d : Duration) : Statement (.wholeSeconds d) := by
  intro w h; cases h

theorem splitTime (total : Nat) : Statement (.splitTime total) := by
  intro w h; cases h

theorem packTime (d : Duration) : Statement (.packTime d) := by
  intro w h; cases h

theorem joinTime (hh mm ss : Byte) : Statement (.joinTime hh mm ss) := by
  intro w h; cases h

theorem fnEncode (x : Observation) : Statement (.fnEncode x) := by
  intro w h; cases h

theorem fnDecode (F : List Byte) (now : Time) : Statement (.fnDecode F now) := by
  intro w h; cases h

theorem findHeader (B : List Byte) (c : Nat) : Statement (.findHeader B c) := by
  intro w h; cases h

theorem parseStream (B : List Byte) (nows : List Time) : Statement (.parseStream B nows) := by
  intro w h; cases h

end Sys2Proof.Laws.WireWidth
end

