-- ==== Sys2Proof/Tests/Slice0.lean ====
section
/-! SUPPORT. Tests: the well-formedness checks refuse, words written out from the spec's tables decode
(30_encoding.md R101, R106 to R108, R120), the operations give the values of 95_test_vectors.md, and
every statement with hypotheses has a witness. -/

namespace Sys2Proof.Tests

set_option Elab.async false

open Sys2Proof Sys2Proof.Machine

/-! ## Helpers -/

/-- The source's vector (95_test_vectors.md S1). -/
def m1 : Frame :=
  #v[0x65, 0x14, 0x00, 0x00, 0x00, 0x0B, 0x8E, 0x0B, 0x95, 0x01, 0x83, 0x08, 0x08, 0x00, 0x02, 0x22,
    0x0D, 0x0A]

/-- `M2` of 95_test_vectors.md. -/
def m2 : Frame :=
  #v[0x65, 0x14, 0x00, 0x00, 0x00, 0x00, 0xD7, 0x80, 0x00, 0x02, 0x81, 0x08, 0x40, 0x01, 0x02, 0x03,
    0x0D, 0x0A]

/-- The fields of `M1` as the table lays them out. -/
def m1Fields : FrameFields := ⟨0, 0x0B8E, 0x0B95, 0, .k, 8, .kelvin, 0x08, 0x08, 0x00, 0x02, 0x22⟩

/-- The fields of `M2` as the table lays them out. -/
def m2Fields : FrameFields := ⟨0, 0x00D7, 0x8000, 0, .j, 8, .celsius, 0x08, 0x40, 0x01, 0x02, 0x03⟩

/-- 295.8 and 296.5 in binary64 (95_test_vectors.md S1). -/
def t2958 : F64 := 0x40727CCCCCCCCCCD
def t2965 : F64 := 0x4072880000000000

/-- 4000.0 in binary64, outside the range of the wire (95_test_vectors.md EN8). -/
def t4000 : F64 := 0x40AF400000000000

/-- `obs(295.8, 296.5, K, K, 154)` (95_test_vectors.md EN1). -/
def x1 : Observation := ⟨[t2958, t2965], 3, 1, 7, ⟨154, 0⟩⟩

/-- The state an answer holds. -/
def nextOf : Answer → Option State
  | .next t => some t
  | .fault _ => none
  | .refused _ => none

/-- The result register an answer holds. -/
def resultAfter (a : Answer) : Option Result := (nextOf a).map State.result

/-- What a record holds but its time stamps, whose widths are parameters. -/
def timeless (r : Record) : F64 × F64 × BitVec 2 × BitVec 3 × BitVec 20 :=
  (r.t0, r.t1, r.units, r.tc, r.meterTime.sec)

/-- The record an operation has returned, without its time stamps. -/
def observationAfter (a : Answer) : Option (F64 × F64 × BitVec 2 × BitVec 3 × BitVec 20) :=
  match resultAfter a with
  | some (.observation r) => some (timeless r)
  | _ => none

/-- A running framer over the bytes `B`. -/
def framing (f : FramerState) (cur : Nat) (B : List Byte) : State :=
  { State.reset with
    buf := Memory.writeRange [] 0 B, len := B.length, fst := f, cur := cur, status := statusStart }

/-- An idle block whose `REC` the host has written. -/
def withRecord (t0 t1 : F64) (units : BitVec 2) (tc : BitVec 3) (sec : BitVec 20) : State :=
  State.reset.setRec t0 t1 units tc ⟨sec, 0⟩

/-- An idle block whose `FRAME` the host has written. -/
def withFrame (F : Frame) : State := State.reset.setFrameAll F

/-- An idle block whose `BUF` and `LEN` hold a stream. -/
def withBuf (B : List Byte) : State := { State.reset with buf := Memory.writeRange [] 0 B, len := B.length }

/-! ## The well-formedness checks refuse -/

theorem test_wf_refuses_putS16BE : (Instr.putS16BE m1 5 32768).wf = false := by decide +kernel
theorem test_wf_refuses_putS16LE : (Instr.putS16LE m1 5 (-32769)).wf = false := by decide +kernel
theorem test_wf_refuses_eq2 : (Instr.eq2 [0x65] 0 0x65 0x14).wf = false := by decide +kernel
theorem test_wf_refuses_tenthsOf : (Instr.tenthsOf 0x7FF0000000000000).wf = false := by decide +kernel
theorem test_wf_refuses_unpackTemp : (Instr.unpackTemp 40000 8).wf = false := by decide +kernel
theorem test_wf_refuses_findHeader : (Instr.findHeader [0x65] 2).wf = false := by decide +kernel
theorem test_wf_refuses_parseStream : (Instr.parseStream m1.toList []).wf = false := by
  decide +kernel

/-! ## Decoding of words written out from the tables (R101, R106 to R108, R120, R160, R161) -/

theorem test_decode_frame18 : decode (.frame [0x65, 0x14, 0xAA, 0xBB, 0xCC, 0x0B, 0x8E, 0x0B, 0x95,
    0xF1, 0x73, 0x48, 0xF7, 0xFF, 0xFE, 0xFD, 0x0D, 0x0A]) =
    .ok (.frame18 ⟨0xAABBCC, 0x0B8E, 0x0B95, 15, .k, 7, .kelvin, 0x48, 0xF7, 0xFF, 0xFE, 0xFD⟩) := by
  decide +kernel
theorem test_decode_unitC : decode (.unitByte 0b10000001) = .ok (.unitC 8) := by decide +kernel
theorem test_decode_unitF : decode (.unitByte 0b10000010) = .ok (.unitF 8) := by decide +kernel
theorem test_decode_unitK : decode (.unitByte 0b00010011) = .ok (.unitK 1) := by decide +kernel
theorem test_decode_tcK : decode (.tcByte 0b11110001) = .ok (.tcK 15) := by decide +kernel
theorem test_decode_tcJ : decode (.tcByte 0b00000010) = .ok (.tcJ 0) := by decide +kernel
theorem test_decode_tcT : decode (.tcByte 0b00000011) = .ok (.tcT 0) := by decide +kernel
theorem test_decode_tcE : decode (.tcByte 0b00000100) = .ok (.tcE 0) := by decide +kernel
theorem test_decode_tcR : decode (.tcByte 0b00000101) = .ok (.tcR 0) := by decide +kernel
theorem test_decode_tcS : decode (.tcByte 0b00000110) = .ok (.tcS 0) := by decide +kernel
theorem test_decode_tcN : decode (.tcByte 0b00010111) = .ok (.tcN 1) := by decide +kernel
theorem test_decode_flagValid : decode (.flagByte 0b01001010) = .ok (.flagValid 4 2) := by
  decide +kernel
theorem test_decode_flagInvalid : decode (.flagByte 0b11010001) = .ok (.flagInvalid 1 1 1) := by
  decide +kernel
theorem test_decode_flagAbsent : decode (.flagByte 0b10110111) = .error .noFlag := by decide +kernel
theorem test_decode_nop : decode (.command 0b00) = .ok .cmdNop := by decide +kernel
theorem test_decode_encode : decode (.command 0b01) = .ok .cmdEncode := by decide +kernel
theorem test_decode_decode : decode (.command 0b10) = .ok .cmdDecode := by decide +kernel
theorem test_decode_parse : decode (.command 0b11) = .ok .cmdParse := by decide +kernel
theorem test_decode_rejects_bad_nibbles : decode (.unitByte 0x84) = .error (.codec (.format .unitEnum)) ∧
    decode (.tcByte 0x10) = .error (.codec (.format .tcEnum)) := by decide +kernel

/-- The table's own bit numbering: frame byte 0 in bits 143:136 (R37, R113). -/
theorem test_table_word_frame :
    decodeTableWord 144 0x65140000000B8E0B95018308080002220D0A = some (.frame18 m1Fields) := by
  decide +kernel
theorem test_table_word_bytes : decodeTableWord 8 0x00 = some .cmdNop ∧
    decodeTableWord 8 0x01 = some .cmdEncode ∧ decodeTableWord 8 0x02 = some .cmdDecode ∧
    decodeTableWord 8 0x03 = some .cmdParse ∧ decodeTableWord 8 0x08 = some (.flagValid 0 0) ∧
    decodeTableWord 8 0x40 = some (.flagInvalid 0 0 0) ∧
    decodeTableWord 8 0x83 = some (.unitK 8) := by decide +kernel
theorem test_match_and_mask : frameWord m1 &&& frameMask = frameMatch := by decide +kernel

/-! ## Values of 95_test_vectors.md, one operation each -/

theorem test_getU8 : resultAfter (exec (.getU8 m1 15) State.reset) = some (.u8 0x22) := by
  decide +kernel
theorem test_getU16BE : resultAfter (exec (.getU16BE m1 5) State.reset) = some (.u16 2958) := by
  decide +kernel
theorem test_getU16LE : resultAfter (exec (.getU16LE m1 5) State.reset) = some (.u16 36363) := by
  decide +kernel
theorem test_getS16BE_negative :
    resultAfter (exec (.getS16BE m2 7) State.reset) = some (.s16 (-32768)) := by decide +kernel
theorem test_putU8 : resultAfter (exec (.putU8 m2 15 0x22) State.reset) =
    some (.frame (m2.set 15 0x22)) := by decide +kernel
theorem test_putS16BE : resultAfter (exec (.putS16BE m2 5 2958) State.reset) =
    some (.frame ((m2.set 5 0x0B).set 6 0x8E)) := by decide +kernel
theorem test_putS16LE : resultAfter (exec (.putS16LE m2 5 2958) State.reset) =
    some (.frame ((m2.set 5 0x8E).set 6 0x0B)) := by decide +kernel
theorem test_lowNibble : resultAfter (exec (.lowNibble 0x17) State.reset) = some (.nibble 7) := by
  decide +kernel
theorem test_testBit : resultAfter (exec (.testBit 0xF7 .valid) State.reset) = some (.bool false) := by
  decide +kernel
theorem test_eq2_one_byte_differs :
    resultAfter (exec (.eq2 [0x65, 0x15] 0 0x65 0x14) State.reset) = some (.bool false) := by
  decide +kernel
theorem test_decUnit : resultAfter (exec (.decUnit 0x71) State.reset) = some (.unit .celsius) ∧
    resultAfter (exec (.decUnit 0x8F) State.reset) = some (.error (.format .unitEnum)) := by
  decide +kernel
theorem test_decTc : resultAfter (exec (.decTc 0x17) State.reset) = some (.tc .n) ∧
    resultAfter (exec (.decTc 0x08) State.reset) = some (.error (.format .tcEnum)) := by
  decide +kernel
theorem test_encTc : resultAfter (exec (.encTc .n) State.reset) = some (.u8 0x07) := by decide +kernel
theorem test_encUnit : resultAfter (exec (.encUnit .fahrenheit) State.reset) = some (.u8 0x82) := by
  decide +kernel

/-- T18: 25.05 times ten rounds to 250.5, a tie, taken to 250. -/
theorem test_tenthsOf_tie :
    resultAfter (exec (.tenthsOf 0x40390CCCCCCCCCCD) State.reset) = some (.tenths (some 250)) := by
  decide +kernel
/-- T14: the product of 1e308 overflows. -/
theorem test_tenthsOf_overflow :
    resultAfter (exec (.tenthsOf 0x7FE1CCF385EBC8A0) State.reset) = some (.tenths none) := by
  decide +kernel
/-- T3. -/
theorem test_packTemp :
    resultAfter (exec (.packTemp 0xBFB999999999999A) State.reset) =
      some (.packed (-1) 0x08) := by decide +kernel
/-- T20: 3276.75 is a tie taken to 32768, outside the range. -/
theorem test_packTemp_range :
    resultAfter (exec (.packTemp 0x40A9998000000000) State.reset) = some (.error (.range .temp)) := by
  decide +kernel
/-- T26. -/
theorem test_unpackTemp : resultAfter (exec (.unpackTemp 32767 0x08) State.reset) =
    some (.temp 0x40A9996666666666) := by decide +kernel
/-- T29. -/
theorem test_unpackTemp_invalid : resultAfter (exec (.unpackTemp 2958 0xF7) State.reset) =
    some (.temp 0x7FF8000000000000) := by decide +kernel
theorem test_wholeSeconds :
    resultAfter (exec (.wholeSeconds ⟨3661, 9⟩) State.reset) = some (.nat 3661) := by decide +kernel
theorem test_splitTime :
    resultAfter (exec (.splitTime 86399) State.reset) = some (.hms 23 59 59) := by decide +kernel
theorem test_packTime : resultAfter (exec (.packTime ⟨921599, 0⟩) State.reset) =
    some (.timeBytes 0xFF 0x3B 0x3B) := by decide +kernel
theorem test_packTime_hours : resultAfter (exec (.packTime ⟨921600, 0⟩) State.reset) =
    some (.error (.range .hours)) := by decide +kernel
theorem test_joinTime :
    resultAfter (exec (.joinTime 0xFF 0xFF 0xFF) State.reset) = some (.nat 933555) := by
  decide +kernel
theorem test_fnEncode : resultAfter (exec (.fnEncode x1) State.reset) = some (.frame m1) := by
  decide +kernel
theorem test_fnEncode_shape :
    resultAfter (exec (.fnEncode ⟨[t2958], 3, 1, 7, ⟨154, 0⟩⟩) State.reset) =
      some (.error .shape) := by decide +kernel
theorem test_fnDecode : observationAfter (exec (.fnDecode m1.toList 0) State.reset) =
    some (t2958, t2965, 3, 1, 154) := by decide +kernel
theorem test_fnDecode_length : resultAfter (exec (.fnDecode [0x65, 0x14] 5) State.reset) =
    some (.error .length) := by decide +kernel
theorem test_findHeader : resultAfter (exec (.findHeader [0x65, 0x65, 0x14] 0) State.reset) =
    some (.index (some 1)) := by decide +kernel
theorem test_findHeader_none : resultAfter (exec (.findHeader [0x14, 0x65] 0) State.reset) =
    some (.index none) := by decide +kernel
/-- FR10's kind: one frame, then a partial one. -/
theorem test_parseStream :
    (parseStream (m2.toList ++ [0x65, 0x14, 0x07]) fun _ => 0).1.map timeless =
        [(0x4035800000000000, 0x7FF8000000000000, 1, 2, 3723)] ∧
      (parseStream (m2.toList ++ [0x65, 0x14, 0x07]) fun _ => 0).2 = [0x65, 0x14, 0x07] := by
  decide +kernel
/-- `ParseStream` never fails (R241): no time is needed where nothing decodes. -/
theorem test_parseStream_no_times : resultAfter (exec (.parseStream (List.replicate 18 0) []) State.reset) =
    some (.stream [] []) := rfl
theorem test_unitF : resultAfter (exec (.unitF 8) State.reset) = some (.unit .fahrenheit) := by
  decide +kernel
theorem test_tcS : resultAfter (exec (.tcS 15) State.reset) = some (.tc .s) := by decide +kernel
theorem test_flags : resultAfter (exec (.flagValid 4 0) State.reset) = some (.bool true) ∧
    resultAfter (exec (.flagInvalid 0 0 0) State.reset) = some (.bool false) := by decide +kernel
/-- EN1 on the command port. -/
theorem test_cmdEncode :
    (nextOf (exec .cmdEncode (withRecord t2958 t2965 3 1 154))).map
      (fun t => (t.frame, t.status, t.err)) = some (m1, 0b010, 0) := by decide +kernel
/-- ER3. -/
theorem test_cmdEncode_error :
    (nextOf (exec .cmdEncode (withRecord t4000 t2965 1 1 0))).map
      (fun t => (t.status, t.err, t.errsub)) = some (0b110, 3, 1) := by decide +kernel
/-- P1. -/
theorem test_cmdDecode : (nextOf (exec .cmdDecode (withFrame m1))).map
    (fun t => (timeless t.record, t.status)) = some ((t2958, t2965, 3, 1, 154), 0b010) := by
  decide +kernel
/-- ER1. -/
theorem test_cmdDecode_error : (nextOf (exec .cmdDecode (withFrame (m1.set 17 0x0B)))).map
    (fun t => (t.status, t.err, t.errsub)) = some (0b110, 1, 2) := by decide +kernel
theorem test_cmdParse : (nextOf (exec .cmdParse (withBuf [0x65]))).map
    (fun t => (t.busy, t.fst, t.cur)) = some (true, .scan, 0) := by decide +kernel
theorem test_cmdNop : nextOf (exec .cmdNop State.reset) = some State.reset := rfl
/-- ER7: a write of 0 does nothing at all. -/
theorem test_writeCmd_zero : State.reset.writeCmd 0 = State.reset := rfl
/-- A write that starts a command shows at once, whatever the last command left (R45, R46). -/
theorem test_writeCmd_status : ({ State.reset with status := 0b110, err := 1 }.writeCmd 1).status = 0b001 ∧
    ({ State.reset with status := 0b010 }.writeCmd 3).status = 0b001 := by decide +kernel
/-- S7: the `TRY` step on the source's vector. -/
theorem test_frame18 :
    (nextOf (step (framing .tryWin 0 m1.toList))).map (fun t => (t.outn, t.cur, t.fst)) =
        some (1, 18, .scan) ∧
      (nextOf (step (framing .tryWin 0 m1.toList))).map (fun t => t.out.map Record.t0) =
        some [t2958] := by decide +kernel
/-- S6 and RS2: with nothing written a `PARSE` takes one step. -/
theorem test_parse_empty : (nextOf (step (State.reset.writeCmd 3))).map
    (fun t => (t.fst, t.status, t.outn, t.cur)) = some (.done, 0b010, 0, 0) := by decide +kernel
/-- S7: the first step after the write of `CMD` finds the header. -/
theorem test_parse_first_step : (nextOf (step ((withBuf m1.toList).writeCmd 3))).map
    (fun t => (t.fst, t.cur)) = some (.lenchk, 0) := by decide +kernel
/-- RS3 and RS4. -/
theorem test_unwritten : step (State.reset.writeCmd 1) = .refused .recordUnwritten ∧
    step (State.reset.writeCmd 2) = .refused .frameUnwritten := ⟨rfl, rfl⟩

/-! ## Witnesses: a state and operands that meet the hypotheses of each statement, for each clause -/

theorem test_witness_DecodeOfEncode : encode (.unitC 8) = some (.unitByte 0x81) ∧
    encode (.frame18 m1Fields) = some (.frame m1.toList) := by decide +kernel
theorem test_witness_EncodeOfDecode : decode (.tcByte 0xF1) = .ok (.tcK 15) ∧
    decode (.frame m1.toList) = .ok (.frame18 m1Fields) := by decide +kernel
theorem test_witness_EnumDecoders : (0x81 : Byte).toNat % 16 = 1 ∧ (0x82 : Byte).toNat % 16 = 2 ∧
    (0x83 : Byte).toNat % 16 = 3 ∧ (0x04 : Byte).toNat % 16 = 4 ∧ (0x05 : Byte).toNat % 16 = 5 ∧
    (0x06 : Byte).toNat % 16 = 6 ∧ (0x17 : Byte).toNat % 16 = 7 ∧ (0x80 : Byte).toNat % 16 = 0 ∧
    4 ≤ (0x84 : Byte).toNat % 16 ∧ 8 ≤ (0x08 : Byte).toNat % 16 ∧ 8 ≤ (0x0F : Byte).toNat % 16 := by
  decide +kernel
theorem test_witness_EnumCodesRoundTrip : (0x13 : Byte).toNat % 16 = (0x83 : Byte).toNat % 16 := by
  decide +kernel
theorem test_witness_EnumFunctions : decUnit 0x83 = .ok .kelvin ∧
    decUnit 0x80 = .error (.format .unitEnum) ∧ decTc 0x01 = .ok .k ∧
    decTc 0x0F = .error (.format .tcEnum) := by decide +kernel
theorem test_witness_FieldReads : 0 < 17 ∧ 16 < 17 := by decide
theorem test_witness_FieldWrites : (17 : Fin 18) ≠ 0 ∧ 16 < 17 ∧ (-32768 : Int) ≤ -32768 ∧
    (32767 : Int) ≤ 32767 ∧ (0 : Fin 18).val ≠ 16 ∧ (0 : Fin 18).val ≠ 16 + 1 := by decide
theorem test_witness_ByteTests : 0 + 2 ≤ [(0x65 : Byte), 0x14].length := by decide
theorem test_witness_PutThenGet : (-32768 : Int) ≤ -32768 ∧ (-32768 : Int) ≤ 32767 := by decide
/-- A tie between 0 and the least subnormal. -/
theorem test_witness_Rounding : 0 < 2 ^ 1075 ∧ roundMag 1 (2 ^ 1075) < infMag ∧ 1 < infMag ∧
    1 ≠ roundMag 1 (2 ^ 1075) ∧
    |(magUnits (roundMag 1 (2 ^ 1075)) * (2 ^ 1075 : Nat) : Int) - ((1 : Nat) * 2 ^ 1074 : Int)| =
      |(magUnits 1 * (2 ^ 1075 : Nat) : Int) - ((1 : Nat) * 2 ^ 1074 : Int)| := by decide +kernel
theorem test_witness_TenthsOf : finiteTemp t2958 = true ∧ tenthsOf t2958 = some 2958 ∧
    finiteTemp 0x7FEFFFFFFFFFFFFF = true ∧ tenthsOf 0x7FEFFFFFFFFFFFFF = none ∧
    signBit t2958 = false ∧ signBit 0xBFB999999999999A = true ∧
    2 * |((2 : Int).natAbs * 2 ^ 1074 : Int) - (magUnits (timesTenMag 0x3FD0000000000000) : Int)| =
      2 ^ 1074 := by decide +kernel
theorem test_witness_PackAndUnpack : finiteTemp 0x7FF0000000000000 = false ∧
    finiteTemp 0x40A9996666666666 = true ∧ tenthsOf 0x40A9996666666666 = some 32767 ∧
    finiteTemp 0xC0A999999999999A = true ∧ tenthsOf 0xC0A999999999999A = some (-32768) ∧
    tenthsOf 0x40A9998000000000 = some 32768 ∧ tenthsOf 0x7FE1CCF385EBC8A0 = none := by
  decide +kernel
theorem test_witness_TemperatureLaws : packTemp t2958 = .ok (2958, 0x08) ∧
    finiteTemp t2958 = true ∧ packTemp 0xFFF0000000000000 = .ok (-32768, 0x40) ∧
    finiteTemp 0xFFF0000000000000 = false ∧
    2 * |((-32768 : Int) * 2 ^ 1074 : Int) -
      (if signBit (flTenth (-32768)) = true then -1 else 1) *
        (magUnits (magBits (flTenth (-32768))) * 10 : Int)| ≤ 2 ^ 1074 := by decide +kernel
theorem test_witness_TimeFunctions : (⟨921599, 0⟩ : Duration).sec.toNat < 921600 ∧
    921600 ≤ (⟨921600, 0⟩ : Duration).sec.toNat := by decide +kernel
theorem test_witness_MeterTimeLaws : (59 : Byte).toNat ≤ 59 ∧ 59 < (60 : Byte).toNat ∧
    (⟨921599, 0⟩ : Duration).sec.toNat ≤ 921599 ∧ packTime ⟨154, 5⟩ = .ok (0, 2, 34) := by
  decide +kernel
theorem test_witness_EncodeFunction : x1.channelTemp = [t2958, t2965] ∧
    packTemp t2958 = .ok (2958, 8) ∧ packTemp t2965 = .ok (2965, 8) ∧ x1.tc ≠ 0 ∧ x1.units ≠ 0 ∧
    x1.meterTime.sec.toNat =
      (0 : Byte).toNat * 3600 + (2 : Byte).toNat * 60 + (34 : Byte).toNat ∧
    (2 : Byte).toNat ≤ 59 ∧ (34 : Byte).toNat ≤ 59 := by decide +kernel
theorem test_witness_EncodeErrors : packTemp t4000 = .error (.range .temp) ∧ packTemp t2958 = .ok (2958, 8) ∧
    [t2958].length ≠ 2 ∧ (0 : BitVec 3) = 0 ∧ (1 : BitVec 3) ≠ 0 ∧ (0 : BitVec 2) = 0 ∧
    (3 : BitVec 2) ≠ 0 ∧ 921600 ≤ (921600 : BitVec 20).toNat ∧ (921599 : BitVec 20).toNat < 921600 := by
  decide +kernel
theorem test_witness_DecodeFunction : m1[0] = 0x65 ∧ m1[1] = 0x14 ∧ m1[16] = 0x0D ∧ m1[17] = 0x0A ∧
    decTc m1[9] = .ok .k ∧ decUnit m1[10] = .ok .kelvin := by decide +kernel
theorem test_witness_DecodeFails : [(0x65 : Byte), 0x14].length ≠ 18 ∧ (m1.set 0 0x64)[0] ≠ 0x65 ∧
    (m1.set 1 0x15)[1] ≠ 0x14 ∧ (m1.set 16 0x0A)[16] ≠ 0x0D ∧ (m1.set 17 0x0B)[17] ≠ 0x0A ∧
    (m1.set 9 0x10)[9].toNat % 16 = 0 ∧ 8 ≤ (m1.set 9 0x08)[9].toNat % 16 ∧
    (m1.set 10 0x80)[10].toNat % 16 = 0 ∧ 4 ≤ (m1.set 10 0x84)[10].toNat % 16 ∧
    m1[9].toNat % 16 = 1 ∧ m1[10].toNat % 16 = 3 := by decide +kernel
theorem test_witness_DecodeAfterEncode : encodeMessage x1 = .ok m1 ∧
    encodeMessage ⟨[0x4035800000000000, 0x7FF8000000000000], 1, 2, 0, ⟨3723, 0⟩⟩ = .ok m2 ∧
    finiteTemp t2958 = true ∧ finiteTemp 0x7FF8000000000000 = false := by decide +kernel
theorem test_witness_EncodeAfterDecode : joinTime 0xFF 0x3B 0x3B < 921600 ∧
    921600 ≤ joinTime 0xFF 0x3C 0x00 ∧ isCanonical m1Fields = true := by decide +kernel
theorem test_witness_CodecIgnores : (decodeMessage m1.toList 0).toOption.isSome = true := by
  decide +kernel
theorem test_witness_EncodeCommand :
    let s := withRecord t2958 t2965 3 1 154
    s.busy = false ∧ s.encodeReady = true ∧ packTemp s.record.t0 = .ok (2958, 8) ∧
      packTemp s.record.t1 = .ok (2965, 8) ∧ s.record.tc ≠ 0 ∧ s.record.units ≠ 0 ∧
      s.record.meterTime.sec.toNat =
        (0 : Byte).toNat * 3600 + (2 : Byte).toNat * 60 + (34 : Byte).toNat ∧
      (2 : Byte).toNat ≤ 59 ∧ (34 : Byte).toNat ≤ 59 := by decide +kernel
theorem test_witness_DecodeCommand :
    let s := withFrame m1
    s.busy = false ∧ s.decodeReady = true ∧ s.frame[0] = 0x65 ∧ s.frame[1] = 0x14 ∧
      s.frame[16] = 0x0D ∧ s.frame[17] = 0x0A ∧ decTc s.frame[9] = .ok .k ∧
      decUnit s.frame[10] = .ok .kelvin := by decide +kernel
theorem test_witness_FailedCommand :
    let s := withRecord t4000 t2965 1 1 0
    let u := withFrame (m1.set 17 0x0B)
    s.busy = false ∧ s.encodeReady = true ∧
      encodeMessage (observationOf s.record) = .error (.range .temp1) ∧ u.busy = false ∧
      u.decodeReady = true ∧
      decodeMessage u.frame.toList (u.nowAt 0) = .error (.format .trailer) := by decide +kernel
theorem test_witness_IgnoredCommands : (framing .scan 0 [0x65]).busy = true ∧
    State.reset.busy = false ∧ ((1 : BitVec 2) = 1 ∨ (1 : BitVec 2) = 2) := by decide +kernel
theorem test_witness_ParseStarts : (withBuf [0x65]).busy = false := by decide +kernel
theorem test_witness_Unwritten :
    let s := State.reset
    let u := { framing .scan 0 m1.toList with buf := [(0, 0x65)] }
    let w := { framing .tryWin 0 m1.toList with buf := Memory.writeRange [] 0 (m1.toList.take 17) }
    s.busy = false ∧ s.recordSet.t0 = false ∧ s.frameSet.getLsbD 17 = false ∧
      u.port = .empty ∧ u.busy = true ∧ u.fst = .scan ∧ u.cur + 2 ≤ u.len ∧ u.cur ≤ 1 ∧
      1 < u.cur + 2 ∧ u.buf.read 1 = none ∧
      w.port = .empty ∧ w.busy = true ∧ w.fst = .tryWin ∧ w.cur + 18 ≤ w.len ∧ w.cur ≤ 17 ∧
      17 < w.cur + 18 ∧ w.buf.read 17 = none := by decide +kernel
theorem test_witness_OutsideDomain : (Instr.tenthsOf 0x7FF8000000000000).wf = false ∧ 16 < 17 ∧
    inS16 32768 = false ∧ inS16 (-32769) = false ∧ finiteTemp 0x7FF0000000000000 = false ∧
    [(0x64 : Byte)].length < 0 + 2 ∧ [(0x64 : Byte)][0]? = some 0x64 ∧ (0x64 : Byte) ≠ 0x65 ∧
    [(0x65 : Byte)].length < 2 := by decide +kernel
theorem test_witness_CommandsTouch :
    (nextOf (exec .cmdEncode (withRecord t2958 t2965 3 1 154))).isSome = true ∧
    (nextOf (exec .cmdDecode (withFrame m1))).isSome = true ∧
    (nextOf (exec .cmdParse (withBuf m1.toList))).isSome = true ∧
    (framing .tryWin 0 m1.toList).port = .empty ∧
    (nextOf (step (framing .tryWin 0 m1.toList))).isSome = true := by decide +kernel
theorem test_witness_FindHeader : 0 ≤ ([0x65, 0x65, 0x14] : List Byte).length ∧
    3 ≤ ([0x65, 0x65, 0x14] : List Byte).length ∧
    findHeader [0x65, 0x65, 0x14] 0 = some 1 ∧ findHeader [0x65, 0x65, 0x14] 3 = none := by
  decide +kernel
theorem test_witness_StreamFunctions : ([7, 8] : List Time)[1]? = some 8 ∧
    (parseStream m1.toList (timesOf m1.toList [7])).1.length ≤ ([7] : List Time).length :=
  ⟨rfl, by decide +kernel⟩
theorem test_witness_ParseShape : ∀ now : Nat → Time,
    parseStream [0x65, 0x14] now = ([], [0x65, 0x14]) := fun _ => rfl
theorem test_witness_StatedProperties : decodeFrame m1.toList = .ok m1Fields ∧
    decodeFrame m2.toList = .ok m2Fields := by decide +kernel
theorem test_witness_Split : ∀ now : Nat → Time,
    parseStream [0x65, 0x14] now = ([], [0x65, 0x14]) ∧
    parseStream ([0x65, 0x14] ++ [0x00]) now = ([], [0x65, 0x14, 0x00]) ∧
    ¬ ([0x65, 0x14] = ([] : List Byte) ∧ ([0x65, 0x14] : List Byte).getLast? = some 0x65 ∧
      ([0x00] : List Byte).head? = some 0x14) := fun _ => ⟨rfl, rfl, by decide⟩
theorem test_witness_ScanSteps :
    let s := framing .scan 0 [0x65]
    let u := framing .scan 0 [0x65, 0x14]
    let v := framing .scan 0 [0x14, 0x65]
    s.port = .empty ∧ s.busy = true ∧ s.fst = .scan ∧ s.len < s.cur + 2 ∧
      u.port = .empty ∧ u.busy = true ∧ u.fst = .scan ∧ u.cur + 2 ≤ u.len ∧
      u.buf.read u.cur = some 0x65 ∧ u.buf.read (u.cur + 1) = some 0x14 ∧
      v.port = .empty ∧ v.busy = true ∧ v.fst = .scan ∧ v.cur + 2 ≤ v.len ∧
      v.buf.read v.cur = some 0x14 ∧ v.buf.read (v.cur + 1) = some 0x65 := by decide +kernel
theorem test_witness_LenchkAndTry :
    let s := framing .lenchk 0 m1.toList
    let u := framing .lenchk 0 (m1.toList.take 17)
    let v := framing .tryWin 0 m1.toList
    let w := framing .tryWin 0 (m1.set 17 0x0B).toList
    s.port = .empty ∧ s.busy = true ∧ s.fst = .lenchk ∧ s.cur + 18 ≤ s.len ∧
      u.port = .empty ∧ u.busy = true ∧ u.fst = .lenchk ∧ u.len < u.cur + 18 ∧
      v.port = .empty ∧ v.busy = true ∧ v.fst = .tryWin ∧ v.cur + 18 ≤ v.len ∧
      v.buf.readRange v.cur 18 = some m1.toList ∧ (decodeMessage m1.toList 0).toOption.isSome = true ∧
      w.buf.readRange w.cur 18 = some (m1.set 17 0x0B).toList ∧
      decodeMessage (m1.set 17 0x0B).toList 0 = .error (.format .trailer) := by decide +kernel
theorem test_witness_AcceptedFrame : (framing .tryWin 0 m1.toList).busy = true ∧
    (framing .tryWin 0 m1.toList).fst = .tryWin ∧
    ¬ (State.reset.busy = true ∧ State.reset.fst = .tryWin) := by decide +kernel
theorem test_witness_ParseRuns : (withBuf m1.toList).port = .empty ∧
    (withBuf m1.toList).busy = false ∧ (withBuf m1.toList).len = m1.toList.length ∧
    (withBuf m1.toList).buf.readRange 0 (withBuf m1.toList).len = some m1.toList := by
  decide +kernel
theorem test_witness_StepRuns :
    let s := State.reset.writeCmd 1
    let u := State.reset.presentWire (.unitByte 0x81)
    let v := State.reset.callFunction (.lowNibble 0x17)
    let w := framing .tryWin 0 m1.toList
    let x := State.reset.presentWire (.unitByte 0x80)
    s.port = .command ∧ decode (.command s.cmd) = .ok .cmdEncode ∧
      u.port = .wire (.unitByte 0x81) ∧ decode (.unitByte 0x81) = .ok (.unitC 8) ∧
      v.port = .call (.lowNibble 0x17) ∧
      w.port = .empty ∧ w.busy = true ∧ w.fst = .tryWin ∧ w.cur + 18 ≤ w.len ∧
      w.buf.readRange w.cur 18 = some m1.toList ∧
      decode (.frame m1.toList) = .ok (.frame18 m1Fields) ∧
      x.port = .wire (.unitByte 0x80) ∧
      decode (.unitByte 0x80) = .error (.codec (.format .unitEnum)) ∧
      State.reset.port = .empty ∧ State.reset.busy = false := by decide +kernel
theorem test_witness_BufferWrites : State.reset.busy = false ∧
    withinCap (0 + m1.toList.length) = true ∧ (framing .scan 0 [0x65]).busy = true ∧
    (nextOf (step (framing .scan 0 [0x65]))).isSome = true :=
  ⟨rfl, withinCap_of_le_18 _ (by decide), by decide +kernel, by decide +kernel⟩
theorem test_witness_LenWrites : State.reset.busy = false ∧ (framing .scan 0 [0x65]).busy = true ∧
    18 ≤ 18 ∧ fitsIn (.bytes 0) 18 = true ∧ fitsIn (.bytes 0) 19 = false := by decide +kernel
theorem test_witness_RegisterWrites : State.reset.busy = false ∧ (1 : Fin 18) ≠ 0 := by
  decide +kernel

/-- A block whose `PARSE` has ended with a partial frame left. -/
def withRemainder : State :=
  { State.reset with
    buf := [(0, 0x65), (1, 0x14)], len := 2, fst := .done, status := 0b010, remReadable := true }

theorem test_witness_Feed : withRemainder.busy = false ∧ withRemainder.carried = some [0x65, 0x14] ∧
    withinCap ([(0x65 : Byte), 0x14].length + [(0x00 : Byte)].length) = true ∧
    withRemainder.fst ≠ .idle ∧ State.reset.fst = .idle ∧
    { withRemainder with remReadable := false }.carried = none :=
  ⟨rfl, by decide +kernel, withinCap_of_le_18 _ (by decide), by decide +kernel, rfl,
    by decide +kernel⟩

/-- The remainder has no value after a host write of `BUF` (R52). -/
theorem test_remainder_ends : withRemainder.remainder = some [0x65, 0x14] ∧
    (withRemainder.memWrite 0 [0x00]).remainder = none :=
  ⟨by decide +kernel, State.remainder_unreadable _ (by
    rw [withRemainder.memWrite_idle 0 [0x00] rfl (withinCap_of_le_18 _ (by decide))])⟩

/-- An index of the bytes `framing` and `withRemainder` write is below 18. -/
theorem read_writeRange_lt (B : List Byte) (a : Nat) (v : Byte)
    (h : (Memory.writeRange [] 0 B).read a = some v) : a < B.length := by
  have key : ∀ (B : List Byte) (m : Memory) (k : Nat), (m.writeRange k B).read a = some v →
      m.read a = some v ∨ a < k + B.length := by
    intro B
    induction B with
    | nil => exact fun m k h => .inl h
    | cons b bs ih =>
      intro m k h
      rcases ih (m.write k b) (k + 1) h with h1 | h1
      · by_cases hk : a = k
        · exact .inr (by simp [hk])
        · exact .inl (by rwa [Memory.read_write_other m k a b hk] at h1)
      · exact .inr (by simp only [List.length_cons]; omega)
  rcases key B [] 0 h with h1 | h1
  · cases h1
  · simpa using h1

/-- A running framer in `TRY` on the source's vector meets the invariant. -/
theorem test_witness_Invariant : (framing .tryWin 0 m1.toList).Inv ∧
    (framing .tryWin 0 m1.toList).port = .empty ∧ (framing .tryWin 0 m1.toList).busy = true ∧
    (framing .tryWin 0 m1.toList).len ≤ 18 ∧
    (nextOf (step (framing .tryWin 0 m1.toList))).isSome = true := by
  refine ⟨⟨by decide +kernel, rfl, ?_, by decide +kernel, by decide +kernel, ?_, ?_, ?_, ?_⟩,
    rfl, by decide +kernel, by decide +kernel, by decide +kernel⟩
  · intro x hx
    simp [framing, State.reset] at hx
  · intro _
    exact .inl ⟨rfl, by decide +kernel, by decide +kernel, .inr (.inr ⟨rfl,
      ⟨by decide +kernel, by decide +kernel, by decide +kernel⟩, by decide +kernel⟩)⟩
  · intro h
    exact absurd h (by decide +kernel)
  · intro h
    exact absurd h (by decide +kernel)
  · exact ⟨withinCap_of_le_18 _ (by decide), fun a v h => withinCap_of_le_18 _
      (read_writeRange_lt m1.toList a v h), withinCap_of_le_18 _ (by decide)⟩

end Sys2Proof.Tests
end

section
/-! PROOFS. The statements of 00_scope.md: rounding to nearest (R16), and the host's `LEN` within the
capacity (R8; 10_state.md R49, R52). -/

namespace Sys2Proof.Machine

/-! ## Rounding to the nearest integer, ties to even (00_scope.md R16, 42_temperature.md R180) -/

/-- Everything `roundEven` can give: the quotient with at most half a unit cut off, or the quotient
plus one with at least half a unit cut off; at exactly one half the even one. -/
theorem roundEven_cases (n d : Nat) :
    (roundEven n d = n / d ∧ 2 * (n % d) ≤ d ∧ (2 * (n % d) = d → n / d % 2 = 0)) ∨
      (roundEven n d = n / d + 1 ∧ d ≤ 2 * (n % d) ∧ (2 * (n % d) = d → (n / d + 1) % 2 = 0)) := by
  unfold roundEven
  dsimp only
  split
  · exact .inl ⟨rfl, by omega, by omega⟩
  · split
    · exact .inr ⟨rfl, by omega, by omega⟩
    · split
      · exact .inl ⟨rfl, by omega, fun _ => ‹_›⟩
      · exact .inr ⟨rfl, by omega, by omega⟩

theorem le_roundEven (n d : Nat) : n / d ≤ roundEven n d := by
  rcases roundEven_cases n d with ⟨h, _⟩ | ⟨h, _⟩ <;> omega

theorem roundEven_le (n d : Nat) : roundEven n d ≤ n / d + 1 := by
  rcases roundEven_cases n d with ⟨h, _⟩ | ⟨h, _⟩ <;> omega

/-- `roundEven` is off by at most one half, and even when it is off by exactly one half. -/
theorem roundEven_error (n d : Nat) (hd : 0 < d) :
    2 * |(roundEven n d * d : Int) - n| ≤ d ∧
      (2 * |(roundEven n d * d : Int) - n| = d → roundEven n d % 2 = 0) := by
  have hn : (d : Int) * (n / d : Nat) + (n % d : Nat) = n := by exact_mod_cast Nat.div_add_mod n d
  have hlt := Nat.mod_lt n hd
  rcases roundEven_cases n d with ⟨hr, hle, htie⟩ | ⟨hr, hle, htie⟩
  · have he : |(roundEven n d * d : Int) - n| = (n % d : Nat) := by
      rw [hr, ← hn, mul_comm, sub_add_cancel_left, abs_neg, Nat.abs_cast]
    rw [he, hr]
    omega
  · have he : |(roundEven n d * d : Int) - n| = d - (n % d : Nat) := by
      rw [hr, ← hn, show ((n / d + 1 : Nat) * d : Int) - (d * (n / d : Nat) + (n % d : Nat)) =
        d - (n % d : Nat) by push_cast; ring]
      exact abs_of_nonneg (by omega)
    rw [he, hr]
    omega

/-- A multiple of `d` within one half of `d` of `x` is a nearest one, and another multiple is as near
only when `x` lies halfway. -/
theorem nearest_multiple {r k d x : Int} (hd : 0 < d) (hr : 2 * |r * d - x| ≤ d) (hk : k ≠ r) :
    |r * d - x| ≤ |k * d - x| ∧ (|r * d - x| = |k * d - x| → 2 * |r * d - x| = d) := by
  have hstep : d ≤ |k * d - r * d| := by
    rw [← sub_mul, abs_mul, abs_of_pos hd]
    exact le_mul_of_one_le_left hd.le (Int.one_le_abs (sub_ne_zero.2 hk))
  have htri : |k * d - r * d| ≤ |k * d - x| + |r * d - x| := by
    rw [abs_sub_comm (r * d)]
    exact abs_sub_le _ _ _
  omega

/-! ## Magnitudes of the finite patterns -/

/-- With the last kept bit at place `s`, the magnitude bits `s * 2^52 + m` stand for `m` units of
`2^s`; `m = 2^53` is the carry into the next exponent. -/
theorem magUnits_shift_add {s m : Nat} (hm : m ≤ 2 ^ 53) (hs : s = 0 ∨ 2 ^ 52 ≤ m) :
    magUnits (s * 2 ^ 52 + m) = m * 2 ^ s := by
  unfold magUnits
  rcases hm.eq_or_lt with rfl | hlt
  · have hdiv : (s * 2 ^ 52 + 2 ^ 53) / 2 ^ 52 = s + 2 := by omega
    have hmod : (s * 2 ^ 52 + 2 ^ 53) % 2 ^ 52 = 0 := by omega
    rw [hdiv, hmod, if_neg (by omega), Nat.add_sub_assoc (by omega), pow_succ]
    ring
  · by_cases h52 : 2 ^ 52 ≤ m
    · have hdiv : (s * 2 ^ 52 + m) / 2 ^ 52 = s + 1 := by omega
      have hmod : 2 ^ 52 + (s * 2 ^ 52 + m) % 2 ^ 52 = m := by omega
      rw [hdiv, hmod, if_neg (by omega), Nat.add_sub_cancel]
    · obtain rfl := hs.resolve_right h52
      rw [if_pos (by omega)]
      simp

/-- Every magnitude has a place of its last bit and a significand below `2^53`, normal unless the
place is 0. -/
theorem exists_shift_add (b : Nat) :
    ∃ s m, b = s * 2 ^ 52 + m ∧ m < 2 ^ 53 ∧ (s = 0 ∨ 2 ^ 52 ≤ m) :=
  ⟨b / 2 ^ 52 - 1, b - (b / 2 ^ 52 - 1) * 2 ^ 52, by omega, by omega, by omega⟩

/-- The order of the magnitude bits is the order of the magnitudes. -/
theorem magUnits_strictMono : StrictMono magUnits := by
  refine strictMono_nat_of_lt_succ fun b => ?_
  obtain ⟨s, m, rfl, hm, hs⟩ := exists_shift_add b
  rw [add_assoc, magUnits_shift_add hm.le hs, magUnits_shift_add (by omega) (by omega)]
  exact Nat.mul_lt_mul_of_pos_right (Nat.lt_succ_self m) (Nat.two_pow_pos s)

/-- A magnitude is a whole number of units of `2^s` or lies below the normal ones of that place. -/
theorem magUnits_multiple_or_lt (b s : Nat) :
    (∃ k, magUnits b = k * 2 ^ s) ∨ (s ≠ 0 ∧ magUnits b < 2 ^ 52 * 2 ^ s) := by
  obtain ⟨e, m, rfl, hm, he⟩ := exists_shift_add b
  by_cases hse : s ≤ e
  · refine .inl ⟨m * 2 ^ (e - s), ?_⟩
    rw [magUnits_shift_add hm.le he, mul_assoc, ← pow_add, Nat.sub_add_cancel hse]
  · refine .inr ⟨by omega, ?_⟩
    rw [← magUnits_shift_add (s := s) (by omega) (.inr le_rfl)]
    exact magUnits_strictMono (by omega)

/-! ## The place and the significand `roundMag` takes -/

/-- The significand `roundMag n d` rounds to. -/
def roundSig (n d : Nat) : Nat := roundEven (n * 2 ^ 1074) (d * 2 ^ ulpShift n d)

theorem roundMag_eq (n d : Nat) : roundMag n d = ulpShift n d * 2 ^ 52 + roundSig n d := rfl

theorem roundMag_even (n d : Nat) (h : roundSig n d % 2 = 0) : roundMag n d % 2 = 0 := by
  rw [roundMag_eq]
  omega

theorem roundSig_le (n d : Nat) : roundSig n d ≤ 2 ^ 53 := by
  refine (roundEven_le _ _).trans (Nat.succ_le_of_lt ?_)
  rw [← Nat.div_div_eq_div_mul, Nat.div_lt_iff_lt_mul (Nat.two_pow_pos _), ← pow_add]
  refine Nat.lt_log2_self.trans_le (Nat.pow_le_pow_right two_pos ?_)
  unfold ulpShift
  omega

/-- Above the subnormals the exact value is normal for the chosen place. -/
theorem ulpShift_le_quotient (n d : Nat) (h : ulpShift n d ≠ 0) :
    2 ^ 52 * 2 ^ ulpShift n d ≤ n * 2 ^ 1074 / d := by
  unfold ulpShift at *
  rw [← pow_add, Nat.add_sub_of_le (by omega)]
  refine Nat.log2_self_le fun h0 => h ?_
  rw [h0]
  rfl

theorem le_roundSig (n d : Nat) (h : ulpShift n d ≠ 0) : 2 ^ 52 ≤ roundSig n d := by
  refine le_trans ?_ (le_roundEven _ _)
  rw [← Nat.div_div_eq_div_mul, Nat.le_div_iff_mul_le (Nat.two_pow_pos _)]
  exact ulpShift_le_quotient n d h

/-- The magnitude `roundMag` gives. -/
theorem magUnits_roundMag (n d : Nat) :
    magUnits (roundMag n d) = roundSig n d * 2 ^ ulpShift n d :=
  magUnits_shift_add (roundSig_le n d) (or_iff_not_imp_left.2 (le_roundSig n d))

/-! ## Rounding to nearest -/

/-- How far `u` units of 2^-1074 are from `n / d`, times `d` to be a whole number. -/
def unitsOff (n d u : Nat) : Int := |(u * d : Int) - (n * 2 ^ 1074 : Nat)|

/-- The distance as the statement about `fl` writes it. -/
theorem unitsOff_eq (n d u : Nat) : |(u * d : Int) - (n * 2 ^ 1074 : Int)| = unitsOff n d u := by
  rw [unitsOff, Nat.cast_mul, Nat.cast_pow, Nat.cast_ofNat]

/-- The distance in units of a place `s`. -/
theorem unitsOff_mul_two_pow (n d k s : Nat) :
    unitsOff n d (k * 2 ^ s) = |(k * (d * 2 ^ s : Nat) : Int) - (n * 2 ^ 1074 : Nat)| := by
  rw [unitsOff, ← Nat.cast_mul, ← Nat.cast_mul, mul_assoc, mul_comm (2 ^ s)]

/-- Below the exact value the distance falls as the magnitude rises. -/
theorem unitsOff_lt_of_lt {n d u v : Nat} (hd : 0 < d) (huv : u < v) (hv : v ≤ n * 2 ^ 1074 / d) :
    unitsOff n d v < unitsOff n d u := by
  have hle : (v * d : Int) ≤ (n * 2 ^ 1074 : Nat) := by
    exact_mod_cast (Nat.le_div_iff_mul_le hd).1 hv
  have hlt : (u * d : Int) < v * d := by exact_mod_cast Nat.mul_lt_mul_of_pos_right huv hd
  rw [unitsOff, unitsOff, abs_of_nonpos (sub_nonpos.2 hle),
    abs_of_nonpos (sub_nonpos.2 (hlt.le.trans hle))]
  exact neg_lt_neg (sub_lt_sub_right hlt _)

/-- A magnitude that is a whole number of units of the chosen place is no nearer than the rounded one,
and as near only at a tie, where the rounded one is even. -/
theorem roundMag_nearest_multiple {n d k : Nat} (hd : 0 < d) (hk : k ≠ roundSig n d) :
    unitsOff n d (magUnits (roundMag n d)) ≤ unitsOff n d (k * 2 ^ ulpShift n d) ∧
      (unitsOff n d (magUnits (roundMag n d)) = unitsOff n d (k * 2 ^ ulpShift n d) →
        roundMag n d % 2 = 0) := by
  have hpos : 0 < d * 2 ^ ulpShift n d := Nat.mul_pos hd (Nat.two_pow_pos _)
  obtain ⟨herr, heven⟩ := roundEven_error (n * 2 ^ 1074) _ hpos
  obtain ⟨hle, htie⟩ := nearest_multiple (Nat.cast_pos.2 hpos) herr (Nat.cast_injective.ne hk)
  rw [magUnits_roundMag, unitsOff_mul_two_pow, unitsOff_mul_two_pow]
  exact ⟨hle, fun h => roundMag_even n d (heven (htie h))⟩

/-- A magnitude below the normal ones of the chosen place is farther than the least of these, which is
no nearer than the rounded one. -/
theorem roundMag_nearer_than_below {n d u : Nat} (hd : 0 < d) (hs : ulpShift n d ≠ 0)
    (hu : u < 2 ^ 52 * 2 ^ ulpShift n d) :
    unitsOff n d (magUnits (roundMag n d)) < unitsOff n d u := by
  refine lt_of_le_of_lt ?_ (unitsOff_lt_of_lt hd hu (ulpShift_le_quotient n d hs))
  by_cases hk : 2 ^ 52 = roundSig n d
  · rw [magUnits_roundMag, hk]
  · exact (roundMag_nearest_multiple hd hk).1

/-- Settles O15: a magnitude is either a multiple of the last place `roundMag` keeps, where
`roundEven` is nearest with ties to even, or lies below a value of that place that is nearer. -/
theorem roundingIsToNearestEven : Obligations.RoundingIsToNearestEven := by
  intro n d hd _ b _
  rw [unitsOff_eq, unitsOff_eq]
  by_cases hb : b = roundMag n d
  · subst hb
    exact ⟨le_rfl, fun h => absurd rfl h⟩
  rcases magUnits_multiple_or_lt b (ulpShift n d) with ⟨k, hk⟩ | ⟨hs, hlt⟩
  · have hne : k ≠ roundSig n d := by
      rintro rfl
      exact hb (magUnits_strictMono.injective (hk.trans (magUnits_roundMag n d).symm))
    obtain ⟨hle, htie⟩ := roundMag_nearest_multiple hd hne
    rw [hk]
    exact ⟨hle, fun _ => htie⟩
  · have hfar := roundMag_nearer_than_below hd hs hlt
    exact ⟨hfar.le, fun _ h => absurd h hfar.ne⟩

/-! ## The host's `LEN` (10_state.md R49) -/

/-- A capacity of so many bytes above 18 (00_scope.md R8). -/
theorem fitsIn_bytes (above n : Nat) : fitsIn (.bytes above) n = true ↔ n ≤ 18 + above :=
  decide_eq_true_iff

/-- No operation writes `LEN`. -/
theorem exec_len {i : Instr} {s t : State} (h : exec i s = .next t) : t.len = s.len := by
  rcases exec_next i s t h with ⟨r, rfl⟩ | rfl | ⟨f, _, h⟩ | ⟨_, _, h⟩ | ⟨_, _, h⟩ | ⟨_, _, rfl⟩
  · rfl
  · rfl
  · rcases execFrame18_next f s t h with ⟨_, rfl⟩ | ⟨_, rfl⟩ <;> rfl
  · rcases execCmdEncode_next s t h with ⟨_, rfl⟩ | ⟨_, _, ⟨F, _, rfl⟩ | ⟨e, _, rfl⟩⟩ <;> rfl
  · rcases execCmdDecode_next s t h with ⟨_, rfl⟩ | ⟨_, _, ⟨r, _, rfl⟩ | ⟨e, _, rfl⟩⟩ <;> rfl
  · rfl

/-- No step writes `LEN`: not the operation it carries out, nor a rejected word, nor the framer. -/
theorem step_len {s t : State} (h : step s = .next t) : t.len = s.len := by
  rcases step_next s t h with ⟨i, _, h⟩ | ⟨e, _, rfl⟩ | ⟨_, _, rfl⟩ | ⟨_, _, _, h⟩ | ⟨_, _, _, h⟩ |
    ⟨_, _, _, _, w, _, ⟨f, _, rfl⟩ | ⟨e, _, rfl⟩⟩
  · exact (exec_len h).trans s.clearPort_len
  · rfl
  · rfl
  · rcases scanStep_next s t h with ⟨_, rfl⟩ | ⟨bs, _, _, ⟨_, rfl⟩ | ⟨_, rfl⟩⟩ <;> rfl
  · rcases lenchkStep_next s t h with ⟨_, rfl⟩ | ⟨_, rfl⟩ <;> rfl
  · rfl
  · rfl

/-- Settles O52: the write goes through `whenIdle`, a capacity is at least 18 bytes, and `step_len`
says that no step writes `LEN`. -/
theorem lenIsTheHostsToWrite : Obligations.LenIsTheHostsToWrite :=
  ⟨fun _ s hb => s.whenIdle_idle _ hb, fitsIn_bytes, fun _ => rfl, fun _ => rfl,
    withinCap_of_le_18, fun _ s hb => s.whenIdle_busy _ hb, fun _ _ => step_len, rfl⟩

end Sys2Proof.Machine
end

section
/-! PROOFS. The statements of 10_state.md: the invariant and what keeps it, the frames of the commands
and of the framer, the cursor, the host's acts, the two codec commands, and the feed. -/

namespace Sys2Proof.Machine

/-! ## The two forms of the invariant: on an idle block and on a busy one -/

/-- The part of the invariant about the data: it speaks of `BUF`, `LEN`, `OUT` and `OUTN` alone. -/
def State.dataOk (s : State) : Prop :=
  s.buf.wf = true ∧ s.outn = s.out.length ∧ (∀ x ∈ s.out, decodedRecord x) ∧ s.capOk

/-- The framer at rest, with the remainder as R52 has it where it is readable. -/
def State.restOk (s : State) : Prop :=
  (s.fst = .idle ∨ s.fst = .done) ∧ (s.remReadable = true → s.remainderOk)

/-- The one legal `STATUS` with `busy` set is that of a command's start, and `ERR` is then 0 (R46). -/
theorem legalStatus_busy : ∀ st e : BitVec 3, statusBusy st = true → legalStatus st e = true →
    st = statusStart ∧ e = 0 := by decide

theorem legalStatus_end : ∀ e : BitVec 3, legalStatus (statusEnd e) e = true := by decide

/-- Without an error there is no sub-cause (R48). -/
theorem legalErrors_zero : ∀ sub : BitVec 3, legalErrors 0 sub = true → sub = 0 := by decide

/-- The codes of every error a command can end with (60_exceptions.md R285). -/
theorem legalErrors_codes (e : Err) (h : e ≠ .range .temp) :
    legalErrors (errCode e) (errSubCode e) = true := by
  cases e with
  | format c => cases c <;> rfl
  | shape => rfl
  | range c =>
    cases c with
    | temp => exact absurd rfl h
    | _ => rfl
  | length => rfl

theorem State.inv_iff_of_idle {s : State} (hb : s.busy = false) :
    s.Inv ↔ s.dataOk ∧ legalStatus s.status s.err = true ∧ legalErrors s.err s.errsub = true ∧
      s.restOk := by
  constructor
  · rintro ⟨hbuf, houtn, hout, hst, herr, _, hidle, hrem, hcap⟩
    exact ⟨⟨hbuf, houtn, hout, hcap⟩, hst, herr, hidle hb, hrem⟩
  · rintro ⟨⟨hbuf, houtn, hout, hcap⟩, hst, herr, hfst, hrem⟩
    exact ⟨hbuf, houtn, hout, hst, herr, fun h => absurd (hb.symm.trans h) (by decide),
      fun _ => hfst, hrem, hcap⟩

/-- A running framer has no readable remainder. -/
theorem State.framerOk.remReadable_eq_false {s : State} (h : s.framerOk)
    (hrem : s.remReadable = true → s.remainderOk) : s.remReadable = false := by
  refine Bool.eq_false_iff.2 fun hr => ?_
  obtain ⟨hdone, _⟩ := hrem hr
  obtain ⟨_, _, _, hf | ⟨hf, _⟩ | ⟨hf, _⟩⟩ := h <;> exact absurd (hf.symm.trans hdone) (by decide)

theorem State.inv_iff_of_busy {s : State} (hb : s.busy = true) :
    s.Inv ↔ s.dataOk ∧ (s.status = statusStart ∧ s.err = 0 ∧ s.errsub = 0) ∧
      (s.framerOk ∧ s.remReadable = false ∨ s.startedOk ∧ s.restOk) := by
  constructor
  · rintro ⟨hbuf, houtn, hout, hst, herr, hbusy, _, hrem, hcap⟩
    obtain ⟨hstart, he⟩ := legalStatus_busy _ _ hb hst
    rw [he] at herr
    refine ⟨⟨hbuf, houtn, hout, hcap⟩, ⟨hstart, he, legalErrors_zero _ herr⟩, ?_⟩
    rcases hbusy hb with hrun | ⟨hport, hcmd, hfst⟩
    · exact .inl ⟨hrun, hrun.remReadable_eq_false hrem⟩
    · exact .inr ⟨⟨hport, hcmd, hfst⟩, hfst, hrem⟩
  · rintro ⟨⟨hbuf, houtn, hout, hcap⟩, ⟨hst, he, hsub⟩, hrun⟩
    refine ⟨hbuf, houtn, hout, ?_, ?_, fun _ => hrun.imp And.left And.left,
      fun h => absurd (hb.symm.trans h) (by decide), fun hr => ?_, hcap⟩
    · rw [hst, he]; decide
    · rw [he, hsub]; decide
    · rcases hrun with ⟨_, hnr⟩ | ⟨_, _, hrem⟩
      · exact absurd (hnr.symm.trans hr) (by decide)
      · exact hrem hr

theorem State.Inv.dataOk {s : State} (h : s.Inv) : s.dataOk := by
  obtain ⟨hbuf, houtn, hout, _, _, _, _, _, hcap⟩ := h
  exact ⟨hbuf, houtn, hout, hcap⟩

/-- Past `SCAN` the header stands at the cursor (45_stream_framer.md R252). -/
theorem State.framerOk.headerAt {s : State} (h : s.framerOk) (hf : s.fst ≠ .scan) :
    s.headerAt s.cur := by
  obtain ⟨_, _, _, hs | ⟨_, hh⟩ | ⟨_, hh, _⟩⟩ := h
  · exact absurd hs hf
  · exact hh
  · exact hh

/-- With an empty port a busy block runs the framer. -/
theorem State.Inv.framerOk {s : State} (h : s.Inv) (hp : s.port = .empty) (hb : s.busy = true) :
    s.framerOk := by
  obtain ⟨_, _, ⟨hrun, _⟩ | ⟨⟨hcmd, _⟩, _⟩⟩ := (State.inv_iff_of_busy hb).1 h
  · exact hrun
  · exact absurd (hp.symm.trans hcmd) (by decide)

/-- The invariant at the end of a command (R46). -/
theorem State.inv_of_ended {s : State} (hd : s.dataOk) (hr : s.restOk)
    (hst : s.status = statusEnd s.err) (he : legalErrors s.err s.errsub = true) : s.Inv := by
  have hb : s.busy = false := by rw [State.busy, hst, statusBusy_end]
  exact (State.inv_iff_of_idle hb).2 ⟨hd, hst ▸ legalStatus_end s.err, he, hr⟩

/-- The invariant at the start of a `PARSE` (45_stream_framer.md R249). -/
theorem State.inv_startParse {s : State} (hd : s.dataOk) (hp : s.port = .empty) :
    s.startParse.Inv := by
  obtain ⟨hbuf, _, _, hlen, hidx, _⟩ := hd
  refine (State.inv_iff_of_busy s.startParse_busy).2 ⟨⟨hbuf, rfl, ?_, hlen, hidx, ?_⟩, ?_, ?_⟩
  · exact fun x hx => absurd hx List.not_mem_nil
  · exact withinCap_of_le_18 _ (Nat.zero_le _)
  · exact ⟨rfl, rfl, rfl⟩
  · exact .inl ⟨⟨hp, Nat.zero_le _, Nat.zero_le _, .inl rfl⟩, rfl⟩

/-! ## An operation keeps the invariant -/

theorem decodedTemp_unpackTemp (m : Half) (fl : Byte) : decodedTemp (unpackTemp (sext16 m) fl) := by
  unfold unpackTemp
  split
  · exact .inr ⟨m, rfl⟩
  · exact .inl rfl

theorem decodedRecord_recordOf (f : FrameFields) (now : Time) : decodedRecord (recordOf f now) :=
  ⟨decodedTemp_unpackTemp f.m1 f.fl1, decodedTemp_unpackTemp f.m2 f.fl2, unitCode_ne_zero _,
    tcCode_ne_zero _, (joinDuration_sec f.hh f.mm f.ss).trans_le (joinTime_le f.hh f.mm f.ss), rfl⟩

/-- The checks of a frame fail with a LengthError or a FormatError (44_message_codec.md R221). -/
theorem decodeFrame_error {F : List Byte} {e : Err} (h : decodeFrame F = .error e) :
    e = .length ∨ ∃ c, e = .format c := by
  by_cases hl : F.length = 18
  · by_cases hh : eq2 F 0 Config.hdr0 Config.hdr1 = true
    · rcases decodeFrame_error_of_header F e hl hh h with rfl | rfl | rfl <;> exact .inr ⟨_, rfl⟩
    · rw [decodeFrame, dif_pos hl, if_neg hh] at h
      exact .inr ⟨.header, (Except.error.inj h).symm⟩
  · rw [decodeFrame, dif_neg hl] at h
    exact .inl (Except.error.inj h).symm

theorem execCmdEncode_keeps_inv {s t : State} (h : s.Inv) (hb : s.busy = false)
    (he : execCmdEncode s = .next t) : t.Inv := by
  obtain ⟨hd, _, _, hr⟩ := (State.inv_iff_of_idle hb).1 h
  rcases execCmdEncode_next s t he with ⟨_, rfl⟩ | ⟨_, _, ⟨F, _, rfl⟩ | ⟨e, herr, rfl⟩⟩
  · exact h
  · exact State.inv_of_ended hd hr rfl (by decide : legalErrors 0 0 = true)
  · refine State.inv_of_ended hd hr rfl (legalErrors_codes e ?_)
    rcases encodeMessage_error _ e herr with rfl | ⟨c, hc, rfl⟩
    · decide
    · exact fun heq => hc (Err.range.inj heq)

theorem execCmdDecode_keeps_inv {s t : State} (h : s.Inv) (hb : s.busy = false)
    (he : execCmdDecode s = .next t) : t.Inv := by
  obtain ⟨hd, _, _, hr⟩ := (State.inv_iff_of_idle hb).1 h
  rcases execCmdDecode_next s t he with ⟨_, rfl⟩ | ⟨_, _, ⟨r, _, rfl⟩ | ⟨e, herr, rfl⟩⟩
  · exact h
  · exact State.inv_of_ended hd hr rfl (by decide : legalErrors 0 0 = true)
  · refine State.inv_of_ended hd hr rfl (legalErrors_codes e ?_)
    rw [decodeMessage_error_iff] at herr
    rcases decodeFrame_error herr with rfl | ⟨c, rfl⟩ <;> exact fun heq => nomatch heq

/-- Every operation keeps the invariant on the idle block with an empty port it is handed. -/
theorem exec_keeps_inv {i : Instr} {s t : State} (h : s.Inv) (hb : s.busy = false)
    (hp : s.port = .empty) (he : exec i s = .next t) : t.Inv := by
  rcases exec_next i s t he with ⟨r, rfl⟩ | rfl | ⟨f, _, hf⟩ | ⟨_, _, hc⟩ | ⟨_, _, hc⟩ | ⟨_, _, rfl⟩
  · exact h
  · exact h
  · rcases execFrame18_next f s t hf with ⟨htry, rfl⟩ | ⟨_, rfl⟩
    · simp [State.inTry, hb] at htry
    · exact h
  · exact execCmdEncode_keeps_inv h hb hc
  · exact execCmdDecode_keeps_inv h hb hc
  · exact State.inv_startParse ((State.inv_iff_of_idle hb).1 h).1 hp

/-- What stands at the port is handed to an idle block with the invariant. -/
theorem State.Inv.clearPort {s : State} (h : s.Inv) (hp : s.port ≠ .empty) :
    s.clearPort.Inv ∧ s.clearPort.busy = false := by
  cases hb : s.busy with
  | false =>
    have hst : s.clearPort.status = s.status := by simp [State.clearPort_status, hb]
    have hbc : s.clearPort.busy = false := by rw [State.busy, hst]; exact hb
    obtain ⟨hd, hls, hle, hr⟩ := (State.inv_iff_of_idle hb).1 h
    exact ⟨(State.inv_iff_of_idle hbc).2 ⟨hd, hst ▸ hls, hle, hr⟩, hbc⟩
  | true =>
    obtain ⟨hd, ⟨_, he, hsub⟩, ⟨⟨hempty, _⟩, _⟩ | ⟨⟨hcmd, _⟩, hr⟩⟩ := (State.inv_iff_of_busy hb).1 h
    · exact absurd hempty hp
    · have hst : s.clearPort.status = 0 := by simp [State.clearPort_status, hcmd, hb]
      have hbc := s.clearPort_busy_command hcmd
      refine ⟨(State.inv_iff_of_idle hbc).2 ⟨hd, ?_, ?_, hr⟩, hbc⟩
      · rw [hst, s.clearPort_err, he]; decide
      · rw [s.clearPort_err, s.clearPort_errsub, he, hsub]; decide

/-! ## The moves of a running framer -/

/-- Everything a step of a running framer can do to the state, with what it has found at the cursor
(45_stream_framer.md R250 to R256). -/
inductive FramerMove (s : State) : State → Prop
  | discard (hf : s.fst = .scan) (hl : s.len < s.cur + 2) : FramerMove s s.discardAll
  | header (hf : s.fst = .scan) (hh : s.headerAt s.cur) : FramerMove s { s with fst := .lenchk }
  | scanOn (hf : s.fst = .scan) (hl : s.cur + 2 ≤ s.len) (hn : ¬ s.headerAt s.cur) :
      FramerMove s s.skipByte
  | window (hf : s.fst = .lenchk) (hw : s.cur + 18 ≤ s.len) : FramerMove s { s with fst := .tryWin }
  | keep (hf : s.fst = .lenchk) (hw : s.len < s.cur + 18) : FramerMove s s.keepRest
  | reject (hf : s.fst = .tryWin) (hw : s.cur + 18 ≤ s.len) {w : List Byte}
      (hr : s.buf.readRange s.cur 18 = some w) {e : Err} (he : decodeFrame w = .error e) :
      FramerMove s s.skipByte
  | accept (hf : s.fst = .tryWin) (hw : s.cur + 18 ≤ s.len) {w : List Byte}
      (hr : s.buf.readRange s.cur 18 = some w) {f : FrameFields} (hd : decodeFrame w = .ok f) :
      FramerMove s (s.draw.accept (recordOf f (s.nowAt 0)))

/-- The two bytes `SCAN` compares are the header of `BUF`. -/
theorem State.headerAt_iff_eq2 {s : State} {a : Nat} {bs : List Byte} (hl : a + 2 ≤ s.len)
    (hr : s.buf.readRange a 2 = some bs) :
    s.headerAt a ↔ eq2 bs 0 Config.hdr0 Config.hdr1 = true := by
  have h0 := Memory.readRange_get _ _ _ _ hr 0 (by decide)
  have h1 := Memory.readRange_get _ _ _ _ hr 1 (by decide)
  rw [eq2_iff, State.headerAt, ← h0, ← h1]
  exact and_iff_right hl

theorem scanStep_framerMove {s t : State} (hf : s.fst = .scan) (h : scanStep s = .next t) :
    FramerMove s t := by
  rcases scanStep_next s t h with ⟨hl, rfl⟩ | ⟨bs, hl, hr, ⟨he, rfl⟩ | ⟨he, rfl⟩⟩
  · exact .discard hf hl
  · exact .header hf ((State.headerAt_iff_eq2 hl hr).2 he)
  · refine .scanOn hf hl fun hh => ?_
    exact absurd (he.symm.trans ((State.headerAt_iff_eq2 hl hr).1 hh)) (by decide)

theorem lenchkStep_framerMove {s t : State} (hf : s.fst = .lenchk) (h : lenchkStep s = .next t) :
    FramerMove s t := by
  rcases lenchkStep_next s t h with ⟨hw, rfl⟩ | ⟨hw, rfl⟩
  · exact .window hf (by omega)
  · exact .keep hf (by omega)

/-- With an empty port a step is a move of the framer, or the block is idle and nothing happens. -/
theorem step_of_port_empty {s t : State} (hp : s.port = .empty) (h : step s = .next t) :
    (s.busy = false ∧ t = s) ∨ (s.busy = true ∧ FramerMove s t) := by
  have hd := (decodePort_none_iff s).2 hp
  rcases step_next s t h with ⟨i, hi, _⟩ | ⟨e, he, _⟩ | ⟨_, hb, rfl⟩ | ⟨_, hb, hf, h⟩ | ⟨_, hb, hf, h⟩ |
    ⟨_, hb, hf, hw, w, hr, ⟨f, hd, rfl⟩ | ⟨e, he, rfl⟩⟩
  · simp [hd] at hi
  · simp [hd] at he
  · exact .inl ⟨hb, rfl⟩
  · exact .inr ⟨hb, scanStep_framerMove hf h⟩
  · exact .inr ⟨hb, lenchkStep_framerMove hf h⟩
  · exact .inr ⟨hb, .accept hf hw hr hd⟩
  · exact .inr ⟨hb, .reject hf hw hr he⟩

/-- With something at the port a step runs it, or returns the error of a word that names no operation,
on the block as `clearPort` hands it over. -/
theorem step_of_port_nonempty {s t : State} (hp : s.port ≠ .empty) (h : step s = .next t) :
    (∃ i, exec i s.clearPort = .next t) ∨ ∃ e, t = s.clearPort.returns (rejectedResult e) := by
  have hd : decodePort s ≠ none := fun hn => hp ((decodePort_none_iff s).1 hn)
  rcases step_next s t h with ⟨i, _, he⟩ | ⟨e, _, ht⟩ | ⟨hn, _⟩ | ⟨hn, _⟩ | ⟨hn, _⟩ | ⟨hn, _⟩
  · exact .inl ⟨i, he⟩
  · exact .inr ⟨e, ht⟩
  all_goals exact absurd hn hd

theorem step_framerMove {s t : State} (hp : s.port = .empty) (hb : s.busy = true)
    (h : step s = .next t) : FramerMove s t := by
  rcases step_of_port_empty hp h with ⟨hn, _⟩ | ⟨_, hm⟩
  · exact absurd (hb.symm.trans hn) (by decide)
  · exact hm

namespace FramerMove

variable {s t : State}

/-- The cursor stays within the data, and 18 bytes before it stand for each observation (R42, R55). -/
theorem consumed (hm : FramerMove s t) (hcur : s.cur ≤ s.len) (hout : 18 * s.outn ≤ s.cur) :
    t.cur ≤ t.len ∧ 18 * t.outn ≤ t.cur := by
  cases hm with
  | discard => exact ⟨le_rfl, hout.trans hcur⟩
  | header | window | keep => exact ⟨hcur, hout⟩
  | scanOn _ hl => exact ⟨Nat.le_of_succ_le hl, hout.trans (Nat.le_succ _)⟩
  | reject _ hw => exact ⟨le_trans (Nat.add_le_add_left (by decide) _) hw, hout.trans (Nat.le_succ _)⟩
  | accept _ hw => exact ⟨hw, Nat.add_le_add_right hout 18⟩

/-- A framer that still runs meets its conditions again. -/
theorem framerOk (hm : FramerMove s t) (h : s.framerOk) (hb : t.busy = true) : t.framerOk := by
  have hhead := h.headerAt
  obtain ⟨hp, hcur, hout, _⟩ := h
  obtain ⟨hcur', hout'⟩ := hm.consumed hcur hout
  cases hm with
  | discard => simp at hb
  | header _ hh => exact ⟨hp, hcur, hout, .inr (.inl ⟨rfl, hh⟩)⟩
  | window hf hw => exact ⟨hp, hcur, hout, .inr (.inr ⟨rfl, hhead (by rw [hf]; decide), hw⟩)⟩
  | keep => simp at hb
  | scanOn | reject | accept => exact ⟨hp, hcur', hout', .inl rfl⟩

/-- A framer that has ended leaves a remainder of the shape of R52 and R258. -/
theorem remainderOk (hm : FramerMove s t) (h : s.framerOk) (hs : s.busy = true) (hb : t.busy = false) :
    t.remainderOk := by
  have hhead := h.headerAt
  obtain ⟨_, hcur, _⟩ := h
  cases hm with
  | discard => exact ⟨rfl, le_rfl, Nat.lt_add_of_pos_right (by decide), .inl rfl⟩
  | keep hf hw => exact ⟨rfl, hcur, hw, .inr (hhead (by rw [hf]; decide))⟩
  | header | scanOn | window | reject | accept => exact absurd (hs.symm.trans hb) (by decide)

theorem dataOk (hm : FramerMove s t) (h : s.dataOk) (hcur : s.cur ≤ s.len)
    (hout : 18 * s.outn ≤ s.cur) : t.dataOk := by
  obtain ⟨hcur', hout'⟩ := hm.consumed hcur hout
  obtain ⟨hbuf, houtn, hrec, hlen, hidx, hcap⟩ := h
  cases hm with
  | discard | header | scanOn | window | keep | reject => exact ⟨hbuf, houtn, hrec, hlen, hidx, hcap⟩
  | accept =>
    refine ⟨hbuf, ?_, fun x hx => ?_, hlen, hidx, withinCap_mono (hout'.trans hcur') hlen⟩
    · simp [houtn]
    · rcases List.mem_append.1 hx with hx | hx
      · exact hrec x hx
      · rw [List.mem_singleton.1 hx]
        exact decodedRecord_recordOf _ _

/-- A move either ends the command without an error or leaves `STATUS`, `ERR`, `ERRSUB` and the mark of
the remainder alone. -/
theorem ends_or_runs (hm : FramerMove s t) :
    (t.status = statusEnd 0 ∧ t.err = 0 ∧ t.errsub = 0) ∨
      (t.status = s.status ∧ t.err = s.err ∧ t.errsub = s.errsub ∧ t.remReadable = s.remReadable) := by
  cases hm with
  | discard | keep => exact .inl ⟨rfl, rfl, rfl⟩
  | header | scanOn | window | reject | accept => exact .inr ⟨rfl, rfl, rfl, rfl⟩

theorem keeps_inv (hm : FramerMove s t) (h : s.Inv) (hp : s.port = .empty) (hb : s.busy = true) :
    t.Inv := by
  have hrun := h.framerOk hp hb
  obtain ⟨hd, ⟨hst, he, hsub⟩, hmark⟩ := (State.inv_iff_of_busy hb).1 h
  have hnr : s.remReadable = false := by
    rcases hmark with ⟨_, hnr⟩ | ⟨⟨hcmd, _⟩, _⟩
    · exact hnr
    · exact absurd (hp.symm.trans hcmd) (by decide)
  have hdata : t.dataOk := by
    obtain ⟨_, hcur, hout, _⟩ := hrun
    exact hm.dataOk hd hcur hout
  rcases hm.ends_or_runs with ⟨hst', he', hsub'⟩ | ⟨hst', he', hsub', hrem'⟩
  · have hbt : t.busy = false := by rw [State.busy, hst', statusBusy_end]
    have hrest := hm.remainderOk hrun hb hbt
    have hdone : t.fst = .done := by
      obtain ⟨hdone, _⟩ := hrest
      exact hdone
    exact State.inv_of_ended hdata ⟨.inr hdone, fun _ => hrest⟩ (by rw [hst', he'])
      (by rw [he', hsub']; decide)
  · have hbt : t.busy = true := by rw [State.busy, hst']; exact hb
    exact (State.inv_iff_of_busy hbt).2 ⟨hdata, ⟨hst'.trans hst, he'.trans he, hsub'.trans hsub⟩,
      .inl ⟨hm.framerOk hrun hbt, hrem'.trans hnr⟩⟩

end FramerMove

/-- Settles O57: an empty port leaves the step to the framer, whose moves keep the invariant; what
stands at the port is handed to an idle block, where every operation keeps it. -/
theorem everyStepKeepsTheInvariant : Obligations.EveryStepKeepsTheInvariant := by
  intro s t h hstep
  by_cases hp : s.port = .empty
  · rcases step_of_port_empty hp hstep with ⟨_, rfl⟩ | ⟨hb, hm⟩
    · exact h
    · exact hm.keeps_inv h hp hb
  · obtain ⟨hc, hcb⟩ := h.clearPort hp
    rcases step_of_port_nonempty hp hstep with ⟨i, he⟩ | ⟨e, rfl⟩
    · exact exec_keeps_inv hc hcb s.clearPort_port he
    · exact hc

/-- Settles O56. -/
theorem invariantHoldsAtReset : Obligations.InvariantHoldsAtReset := by
  refine (State.inv_iff_of_idle (by decide)).2
    ⟨⟨rfl, rfl, fun x hx => absurd hx List.not_mem_nil, ?_⟩, by decide, by decide, .inl rfl, ?_⟩
  · exact ⟨withinCap_of_le_18 _ (Nat.zero_le _), fun a v hv => absurd hv (Option.some_ne_none v).symm,
      withinCap_of_le_18 _ (Nat.zero_le _)⟩
  · exact fun hr => absurd hr Bool.false_ne_true

/-- Settles O59: 18 bytes before the cursor stand for each observation, before a move and after it. -/
theorem outNeverExceedsItsCapacity : Obligations.OutNeverExceedsItsCapacity := by
  refine ⟨fun s h => ?_, fun s t bufCap h hp hb hlen hstep => ?_⟩
  · obtain ⟨_, hcount, _, _, _, hcap⟩ := h.dataOk
    rwa [← hcount]
  · obtain ⟨_, hcur, hout, _⟩ := h.framerOk hp hb
    obtain ⟨hcur', hout'⟩ := (step_framerMove hp hb hstep).consumed hcur hout
    obtain ⟨_, hs, _⟩ := h.dataOk
    obtain ⟨_, ht, _⟩ := (everyStepKeepsTheInvariant s t h hstep).dataOk
    have hl := step_len hstep
    simp only [Config.outCap, Config.msgLen]
    omega

/-- Settles O47: the cursor of each move, which stays within the data, of which no step changes the
length. -/
theorem cursorMovesForward : Obligations.CursorMovesForward := by
  intro s t h hp hb hstep
  obtain ⟨_, hcur, hout, _⟩ := h.framerOk hp hb
  have hm := step_framerMove hp hb hstep
  obtain ⟨hcur', _⟩ := hm.consumed hcur hout
  obtain ⟨hmove, hle⟩ : (t.cur = s.cur ∨ t.cur = s.cur + 1 ∨ t.cur = s.cur + 18 ∨ t.cur = t.len) ∧
      s.cur ≤ t.cur := by
    cases hm with
    | discard => exact ⟨.inr (.inr (.inr rfl)), hcur⟩
    | header | window | keep => exact ⟨.inl rfl, le_rfl⟩
    | scanOn | reject => exact ⟨.inr (.inl rfl), Nat.le_succ _⟩
    | accept => exact ⟨.inr (.inr (.inl rfl)), Nat.le_add_right _ _⟩
  exact ⟨hmove, hle, hcur', step_len hstep⟩

/-! ## What the commands and the framer leave alone (R38) -/

theorem execCmdEncode_frame {s t : State} (h : execCmdEncode s = .next t) :
    t = { s with
      frame := t.frame, frameSet := t.frameSet, status := t.status, err := t.err,
      errsub := t.errsub } := by
  rcases execCmdEncode_next s t h with ⟨_, rfl⟩ | ⟨_, _, ⟨F, _, rfl⟩ | ⟨e, _, rfl⟩⟩ <;> rfl

theorem execCmdDecode_frame {s t : State} (h : execCmdDecode s = .next t) :
    t = { s with
      record := t.record, recordSet := t.recordSet, nowIn := t.nowIn, draws := t.draws,
      status := t.status, err := t.err, errsub := t.errsub } := by
  rcases execCmdDecode_next s t h with ⟨_, rfl⟩ | ⟨_, _, ⟨r, _, rfl⟩ | ⟨e, _, rfl⟩⟩ <;> rfl

/-- What the start of a `PARSE` and every move of the framer leave alone. -/
def State.framerFrame (s t : State) : Prop :=
  t.record = s.record ∧ t.recordSet = s.recordSet ∧ t.frame = s.frame ∧ t.frameSet = s.frameSet ∧
    t.buf = s.buf ∧ t.len = s.len ∧ t.cmd = s.cmd ∧ t.port = s.port ∧ t.result = s.result

theorem State.framerFrame_refl (s : State) : s.framerFrame s :=
  ⟨rfl, rfl, rfl, rfl, rfl, rfl, rfl, rfl, rfl⟩

theorem execCmdParse_frame {s t : State} (h : execCmdParse s = .next t) : s.framerFrame t := by
  rcases execCmdParse_next s t h with ⟨_, rfl⟩ | ⟨_, rfl⟩ <;> exact State.framerFrame_refl _

theorem FramerMove.frame {s t : State} (hm : FramerMove s t) : s.framerFrame t := by
  cases hm <;> exact State.framerFrame_refl s

/-- Settles O35: the frame of each command, and that of the framer's moves. -/
theorem commandsTouchOnlyTheirRegisters : Obligations.CommandsTouchOnlyTheirRegisters := by
  refine ⟨fun s t => execCmdEncode_frame, fun s t => execCmdDecode_frame, fun s t h => ?_⟩
  rcases h with h | ⟨hp, h⟩
  · exact execCmdParse_frame h
  · rcases step_of_port_empty hp h with ⟨_, rfl⟩ | ⟨_, hm⟩
    · exact t.framerFrame_refl
    · exact hm.frame

/-! ## `BUF` is the host's to write (20_memory.md R73) -/

/-- What stands at an index after a range write: the byte of the range, or what stood there. -/
theorem Memory.read_writeRange (m : Memory) (a i : Nat) (vs : List Byte) :
    (m.writeRange a vs).read i =
      if a ≤ i ∧ i < a + vs.length then vs[i - a]? else m.read i := by
  induction vs generalizing m a with
  | nil => rw [if_neg (by simp)]; rfl
  | cons v vs ih =>
    rw [Memory.writeRange, ih]
    rcases Nat.lt_trichotomy i a with hi | rfl | hi
    · rw [if_neg (by omega), if_neg (by omega), Memory.read_write_other m a i v hi.ne]
    · rw [if_neg (by omega), if_pos (by simp), Memory.read_write_same]
      simp
    · obtain ⟨j, rfl⟩ := Nat.exists_eq_add_of_lt hi
      rw [Memory.read_write_other m a _ v (by omega), show a + j + 1 - a = j + 1 by omega,
        show a + j + 1 - (a + 1) = j by omega, List.getElem?_cons_succ, List.length_cons]
      exact if_congr (by omega) rfl rfl

/-- No operation writes `BUF`. -/
theorem exec_buf {i : Instr} {s t : State} (h : exec i s = .next t) : t.buf = s.buf := by
  rcases exec_next i s t h with ⟨r, rfl⟩ | rfl | ⟨f, _, h⟩ | ⟨_, _, h⟩ | ⟨_, _, h⟩ | ⟨_, _, rfl⟩
  · rfl
  · rfl
  · rcases execFrame18_next f s t h with ⟨_, rfl⟩ | ⟨_, rfl⟩ <;> rfl
  · rw [execCmdEncode_frame h]
  · rw [execCmdDecode_frame h]
  · rfl

/-- No step writes `BUF`: not the operation at the port, nor a rejected word, nor the framer. -/
theorem step_buf {s t : State} (h : step s = .next t) : t.buf = s.buf := by
  by_cases hp : s.port = .empty
  · rcases step_of_port_empty hp h with ⟨_, rfl⟩ | ⟨_, hm⟩
    · rfl
    · obtain ⟨_, _, _, _, hbuf, _⟩ := hm.frame
      exact hbuf
  · rcases step_of_port_nonempty hp h with ⟨i, he⟩ | ⟨e, rfl⟩
    · exact (exec_buf he).trans s.clearPort_buf
    · rfl

/-- Settles O51: the bytes of a range write, the write that is ignored, and that no step writes
`BUF`. -/
theorem hostWritesOfTheBuffer : Obligations.HostWritesOfTheBuffer := by
  refine ⟨fun addr v s hb hf => ?_, fun addr v s hn => ?_, fun s t => step_buf⟩
  · rw [s.memWrite_idle addr v hb hf]
    exact ⟨fun a => Memory.read_writeRange s.buf addr a v, rfl, State.remainder_unreadable _ rfl⟩
  · rcases s.memWrite_cases addr v with h | ⟨hb, hf, _⟩
    · exact h
    · rcases hn with hn | hn
      · exact absurd (hb.symm.trans hn) (by decide)
      · exact absurd (hf.symm.trans hn) (by decide)

/-! ## The acts of the host keep the invariant -/

/-- A write made only while the block is idle keeps the invariant when it does so on an idle block
(20_memory.md R82). -/
theorem State.Inv.whenIdle {s t : State} (h : s.Inv) (ht : s.busy = false → t.Inv) :
    (s.whenIdle t).Inv := by
  cases hb : s.busy with
  | true => rwa [s.whenIdle_busy t hb]
  | false => rw [s.whenIdle_idle t hb]; exact ht hb

/-- The port of an idle block may hold anything. -/
theorem State.Inv.setPort {s : State} (h : s.Inv) (hb : s.busy = false) (p : Port) :
    { s with port := p }.Inv :=
  (State.inv_iff_of_idle (s := { s with port := p }) hb).2 ((State.inv_iff_of_idle hb).1 h)

/-- Within the capacity a write of `BUF` on an idle block keeps the invariant (R54; 20_memory.md
R73). -/
theorem State.Inv.memWrite {s : State} (h : s.Inv) (addr : Nat) (v : List Byte) :
    (s.memWrite addr v).Inv := by
  rcases s.memWrite_cases addr v with heq | ⟨hb, hf, heq⟩
  · rwa [heq]
  · obtain ⟨⟨hbuf, houtn, hout, hlen, hidx, hcap⟩, hst, herr, hfst, _⟩ :=
      (State.inv_iff_of_idle hb).1 h
    rw [heq]
    refine (State.inv_iff_of_idle ?_).2 ⟨⟨Memory.writeRange_wf _ _ _ hbuf, houtn, hout, hlen, ?_, hcap⟩,
      hst, herr, hfst, fun hr => absurd hr Bool.false_ne_true⟩
    · exact hb
    intro a w hw
    rw [Memory.read_writeRange] at hw
    split at hw
    · exact withinCap_mono (by omega) hf
    · exact hidx a w hw

/-- Within the capacity a write of `LEN` on an idle block keeps the invariant (R49, R52). -/
theorem State.Inv.writeLen {s : State} (h : s.Inv) (n : Nat) : (s.writeLen n).Inv := by
  rcases s.writeLen_cases n with heq | ⟨hb, hf, heq⟩
  · rwa [heq]
  · obtain ⟨⟨hbuf, houtn, hout, _, hidx, hcap⟩, hst, herr, hfst, _⟩ := (State.inv_iff_of_idle hb).1 h
    rw [heq]
    refine (State.inv_iff_of_idle ?_).2 ⟨⟨hbuf, houtn, hout, hf, hidx, hcap⟩, hst, herr, hfst,
      fun hr => absurd hr Bool.false_ne_true⟩
    exact hb

/-- The start of a command keeps the invariant (R45, R46; 45_stream_framer.md R249). -/
theorem State.Inv.writeCmd {s : State} (h : s.Inv) (c : BitVec 2) : (s.writeCmd c).Inv := by
  rcases s.writeCmd_cases c with ⟨_, heq⟩ | ⟨hb, _, heq⟩ | ⟨hb, hc, heq⟩
  · rwa [heq]
  · obtain ⟨hd, _⟩ := (State.inv_iff_of_idle hb).1 h
    rw [heq]
    exact State.inv_startParse (s := { s with cmd := 3, port := .empty }) hd rfl
  · obtain ⟨hd, _, _, hfst, hrem⟩ := (State.inv_iff_of_idle hb).1 h
    rw [heq]
    refine (State.inv_iff_of_busy ?_).2
      ⟨hd, ⟨rfl, rfl, rfl⟩, .inr ⟨⟨rfl, hc, hfst⟩, hfst, hrem⟩⟩
    exact s.beginCommand_busy

theorem State.Inv.presentWire {s : State} (h : s.Inv) (w : Wire) : (s.presentWire w).Inv := by
  cases w with
  | command c => exact h.writeCmd c
  | frame | unitByte | tcByte | flagByte => exact h.whenIdle fun hb => h.setPort hb _

theorem State.Inv.callFunction {s : State} (h : s.Inv) (i : Instr) : (s.callFunction i).Inv := by
  refine h.whenIdle fun hb => ?_
  split
  · exact h.setPort hb _
  · exact h

/-- Settles O60: the writes of `REC`, `FRAME` and `now` touch no part of the invariant; the other acts
by the lemma of each. -/
theorem hostActsKeepTheInvariant : Obligations.HostActsKeepTheInvariant := by
  intro s h
  refine ⟨fun w => h.whenIdle fun _ => ?_, fun o b => h.whenIdle fun _ => h,
    fun F => h.whenIdle fun _ => h, h.memWrite, h.writeLen, h.writeCmd, fun nows => h,
    h.presentWire, h.callFunction, invariantHoldsAtReset, fun chunk u hu => ?_⟩
  · cases w <;> exact h
  · obtain ⟨rem, _, rfl⟩ := Option.map_eq_some_iff.1 hu
    exact ((h.memWrite 0 _).writeLen _).writeCmd 3

/-! ## A step of the block, by where its instruction comes from -/

theorem fetch_framer {s : State} (hp : s.port = .empty) (hb : s.busy = true) :
    fetch s = fetchFramer s := by
  simp [fetch, (decodePort_none_iff s).2 hp, hb]

theorem step_scan {s : State} (hp : s.port = .empty) (hb : s.busy = true) (hf : s.fst = .scan) :
    step s = scanStep s := by
  simp [step, fetch_framer hp hb, fetchFramer, hf]

theorem step_lenchk {s : State} (hp : s.port = .empty) (hb : s.busy = true) (hf : s.fst = .lenchk) :
    step s = lenchkStep s := by
  simp [step, fetch_framer hp hb, fetchFramer, hf]

theorem fetch_tryWin {s : State} (hp : s.port = .empty) (hb : s.busy = true) (hf : s.fst = .tryWin) :
    fetch s = fetchWindow s := by
  simp [fetch_framer hp hb, fetchFramer, hf]

theorem State.memRead_bytes {s : State} {a n : Nat} {bs : List Byte} (hl : a + n ≤ s.len)
    (hr : s.buf.readRange a n = some bs) : s.memRead a n = .bytes bs := by
  simp [State.memRead, hl, hr]

/-- A read of a range with an unwritten byte gives no value (R58). -/
theorem State.memRead_noValue {s : State} {a n i : Nat} (hl : a + n ≤ s.len) (ha : a ≤ i)
    (hi : i < a + n) (hn : s.buf.read i = none) : s.memRead a n = .noValue := by
  have hr : s.buf.readRange a n = none := by
    refine Option.not_isSome_iff_eq_none.1 fun hs => ?_
    have := (Memory.readRange_isSome s.buf a n).1 hs (i - a) (by omega)
    rw [Nat.add_sub_cancel' ha, hn] at this
    exact absurd this (by decide)
  simp [State.memRead, hl, hr]

/-- A window that decodes is the instruction the step runs (45_stream_framer.md R253). -/
theorem step_window_ok {s : State} {w : List Byte} {i : Instr} (hp : s.port = .empty)
    (hb : s.busy = true) (hf : s.fst = .tryWin) (hw : s.cur + 18 ≤ s.len)
    (hr : s.buf.readRange s.cur 18 = some w) (hd : decode (.frame w) = .ok i) :
    step s = exec i s := by
  simp [step, fetch_tryWin hp hb hf, fetchWindow, State.memRead_bytes hw hr, hd]

/-- A window that does not decode moves the cursor by one (45_stream_framer.md R255). -/
theorem step_window_error {s : State} {w : List Byte} {e : DecodeError} (hp : s.port = .empty)
    (hb : s.busy = true) (hf : s.fst = .tryWin) (hw : s.cur + 18 ≤ s.len)
    (hr : s.buf.readRange s.cur 18 = some w) (hd : decode (.frame w) = .error e) :
    step s = .next s.skipByte := by
  simp [step, fetch_tryWin hp hb hf, fetchWindow, State.memRead_bytes hw hr, hd]

/-! ## `ParseStream` at a cursor (45_stream_framer.md R240, R242) -/

/-- `FindHeader` looks at the two bytes at its cursor, then one byte on. -/
theorem findHeader_step {B : List Byte} {c : Nat} (h : c + 1 < B.length) :
    findHeader B c =
      if B[c] = Config.hdr0 ∧ B[c + 1] = Config.hdr1 then some c else findHeader B (c + 1) := by
  rw [findHeader, List.drop_eq_getElem_cons (Nat.lt_of_succ_lt h), List.drop_eq_getElem_cons h,
    headerFrom, findHeader, List.drop_eq_getElem_cons h]

/-- Where fewer than two bytes are left there is no header. -/
theorem findHeader_short {B : List Byte} {c : Nat} (h : B.length < c + 2) : findHeader B c = none := by
  have hl : (B.drop c).length < 2 := by rw [List.length_drop]; omega
  unfold findHeader
  match hd : B.drop c with
  | [] => rfl
  | [_] => rfl
  | _ :: _ :: _ => rw [hd] at hl; simp at hl

section

variable {B : List Byte} {now : Nat → Time} {fuel cur : Nat} {out : List Record}

theorem parseLoop_no_header (h : findHeader B cur = none) :
    parseLoop B now (fuel + 1) cur out = (out, []) := by
  simp [parseLoop, h]

theorem parseLoop_next_header (h : findHeader B cur = findHeader B (cur + 1)) :
    parseLoop B now (fuel + 1) cur out = parseLoop B now (fuel + 1) (cur + 1) out := by
  simp only [parseLoop, h]

theorem parseLoop_partial (h : findHeader B cur = some cur) (hw : B.length < cur + 18) :
    parseLoop B now (fuel + 1) cur out = (out, B.drop cur) := by
  simp only [parseLoop, h, Config.msgLen]
  rw [if_pos (by omega)]

theorem parseLoop_accept {x : Record} (h : findHeader B cur = some cur) (hw : cur + 18 ≤ B.length)
    (hx : decodeMessage ((B.drop cur).take 18) (now out.length) = .ok x) :
    parseLoop B now (fuel + 1) cur out = parseLoop B now fuel (cur + 18) (out ++ [x]) := by
  rw [parseLoop, h]
  simp only [Config.msgLen, hx]
  rw [if_neg (by omega)]

theorem parseLoop_reject {e : Err} (h : findHeader B cur = some cur) (hw : cur + 18 ≤ B.length)
    (he : decodeMessage ((B.drop cur).take 18) (now out.length) = .error e) :
    parseLoop B now (fuel + 1) cur out = parseLoop B now fuel (cur + 1) out := by
  rw [parseLoop, h]
  simp only [Config.msgLen, he]
  rw [if_neg (by omega)]

end

/-! ## The framer computes `ParseStream` (45_stream_framer.md R257, R259) -/

namespace State

variable {s t s₀ : State} {B : List Byte}

/-- What stands in `BUF` below `LEN`. -/
theorem holdsStream.read (h : s.holdsStream B) {i : Nat} (hi : i < B.length) :
    s.buf.read i = some B[i] := by
  obtain ⟨hl, hr⟩ := h
  have hg := Memory.readRange_get _ _ _ _ hr i (hl ▸ hi)
  rwa [Nat.zero_add, List.getElem?_eq_getElem hi] at hg

theorem holdsStream.readRange (h : s.holdsStream B) {a n : Nat} (hn : a + n ≤ B.length) :
    s.buf.readRange a n = some ((B.drop a).take n) := by
  obtain ⟨hl, hr⟩ := h
  have hp := Memory.readRange_part _ 0 _ a n _ hr (hl ▸ hn)
  rwa [Nat.zero_add] at hp

/-- The framer's step at the cursor is that of `FindHeader`. -/
theorem holdsStream.findHeader_of_headerAt (h : s.holdsStream B) {a : Nat} (hh : s.headerAt a) :
    findHeader B a = some a := by
  obtain ⟨hl, h0, h1⟩ := hh
  have hb : a + 1 < B.length := by have := h.1; omega
  rw [h.read (Nat.lt_of_succ_lt hb)] at h0
  rw [h.read hb] at h1
  rw [findHeader_step hb, if_pos ⟨Option.some.inj h0, Option.some.inj h1⟩]

theorem holdsStream.findHeader_of_not_headerAt (h : s.holdsStream B) {a : Nat} (hl : a + 2 ≤ s.len)
    (hn : ¬ s.headerAt a) : findHeader B a = findHeader B (a + 1) := by
  have hb : a + 1 < B.length := by have := h.1; omega
  rw [findHeader_step hb, if_neg]
  rintro ⟨h0, h1⟩
  exact hn ⟨hl, by rw [h.read (Nat.lt_of_succ_lt hb), h0], by rw [h.read hb, h1]⟩

/-- `s` is a state of the framer that started in `s₀` over the data `B`: what `ParseStream` still has to
do from its cursor and `OUT` gives the result for the whole of `B`. -/
structure Parsing (s₀ : State) (B : List Byte) (s : State) : Prop where
  frame : s₀.framerFrame s
  busy : s.busy = true
  running : s.framerOk
  count : s.outn = s.out.length
  nows : ∀ k, s.nowAt k = s₀.nowAt (s.out.length + k)
  rest : ∃ fuel, B.length < fuel + s.cur ∧
    parseLoop B s₀.nowAt fuel s.cur s.out = parseStream B s₀.nowAt

/-- `t` is a state in which the framer that started in `s₀` over the data `B` has ended with the result
of `ParseStream`. -/
structure HasParsed (s₀ : State) (B : List Byte) (t : State) : Prop where
  frame : s₀.framerFrame t
  ended : t.status = 0b010 ∧ t.err = 0 ∧ t.errsub = 0
  fst : t.fst = .done
  count : t.outn = t.out.length
  out : t.out = (parseStream B s₀.nowAt).1
  remainder : t.remainder = some (parseStream B s₀.nowAt).2

theorem HasParsed.busy (h : s₀.HasParsed B t) : t.busy = false := by
  rw [State.busy, h.ended.1]; decide

theorem framerFrame.holdsStream (h : s₀.framerFrame s) (hB : s₀.holdsStream B) : s.holdsStream B := by
  obtain ⟨_, _, _, _, hbuf, hlen, _⟩ := h
  rwa [State.holdsStream, hbuf, hlen]

theorem framerFrame.trans (h : s₀.framerFrame s) (h' : s.framerFrame t) : s₀.framerFrame t := by
  obtain ⟨a1, a2, a3, a4, a5, a6, a7, a8, a9⟩ := h
  obtain ⟨b1, b2, b3, b4, b5, b6, b7, b8, b9⟩ := h'
  exact ⟨b1.trans a1, b2.trans a2, b3.trans a3, b4.trans a4, b5.trans a5, b6.trans a6, b7.trans a7,
    b8.trans a8, b9.trans a9⟩

/-- Over written data a running framer is never refused and never stuck. -/
theorem framerOk.step_isNext (h : s.framerOk) (hb : s.busy = true) (hB : s.holdsStream B) :
    ∃ t, step s = .next t := by
  obtain ⟨hp, hcur, _, hf | ⟨hf, _⟩ | ⟨hf, _, hw⟩⟩ := h
  · rw [step_scan hp hb hf, scanStep]
    split
    · exact ⟨_, rfl⟩
    · have hl : s.cur + 2 ≤ s.len := by omega
      rw [State.memRead_bytes hl (hB.readRange (hB.1 ▸ hl))]
      dsimp only
      split <;> exact ⟨_, rfl⟩
  · rw [step_lenchk hp hb hf, lenchkStep]
    split <;> exact ⟨_, rfl⟩
  · have hr := hB.readRange (hB.1 ▸ hw)
    cases hd : decodeFrame ((B.drop s.cur).take 18) with
    | ok f =>
      rw [step_window_ok (i := .frame18 f) hp hb hf hw hr (by simp [decode, hd]), exec, execFrame18]
      split <;> exact ⟨_, rfl⟩
    | error e =>
      exact ⟨_, step_window_error (e := .codec e) hp hb hf hw hr (by simp [decode, hd])⟩

/-- How many steps a running framer can still take: three for each byte left, less those already made
at the cursor (45_stream_framer.md R257). -/
def stepsLeft (s : State) : Nat :=
  3 * (s.len - s.cur) + 1 -
    match s.fst with
    | .lenchk => 1
    | .tryWin => 2
    | _ => 0

theorem framerOk.stepsLeft_pos (h : s.framerOk) : 0 < s.stepsLeft := by
  obtain ⟨_, _, _, hf | ⟨hf, hl, _⟩ | ⟨hf, _, hw⟩⟩ := h <;> simp only [stepsLeft, hf] <;> omega

end State

theorem FramerMove.stepsLeft_lt {s t : State} (hm : FramerMove s t) (hb : t.busy = true) :
    t.stepsLeft < s.stepsLeft := by
  cases hm with
  | discard => simp at hb
  | keep => simp at hb
  | header hf hh =>
    obtain ⟨hl, _⟩ := hh
    simp only [State.stepsLeft, hf]
    omega
  | window hf hw => simp only [State.stepsLeft, hf]; omega
  | scanOn hf hl => simp only [State.stepsLeft, hf, s.skipByte_len, s.skipByte_cur, s.skipByte_fst]; omega
  | reject hf hw => simp only [State.stepsLeft, hf, s.skipByte_len, s.skipByte_cur, s.skipByte_fst]; omega
  | accept hf hw =>
    simp only [State.stepsLeft, hf, State.accept_len, State.accept_cur, State.accept_fst,
      State.draw_len, State.draw_cur, Config.msgLen]
    omega

namespace State

variable {s t s₀ : State} {B : List Byte}

/-- The remainder of a framer that has ended is what follows its cursor (R52). -/
theorem holdsStream.remainder (h : t.holdsStream B) (hb : t.busy = false) (hf : t.fst = .done)
    (hr : t.remReadable = true) (hc : t.cur ≤ t.len) : t.remainder = some (B.drop t.cur) := by
  have hl := h.1
  rw [State.remainder, t.readIdle_idle _ hb, if_pos ⟨hf, hr⟩, h.readRange (by omega), hl,
    ← List.length_drop, List.take_length]

/-- A framer that ends with what `ParseStream` returns has parsed. -/
theorem Parsing.hasParsed (h : s₀.Parsing B s) (hB : s₀.holdsStream B) (hm : FramerMove s t)
    (hend : t.status = statusEnd 0 ∧ t.err = 0 ∧ t.errsub = 0) (hf : t.fst = .done)
    (hr : t.remReadable = true) (hcount : t.outn = t.out.length)
    (hres : parseStream B s₀.nowAt = (t.out, B.drop t.cur)) : s₀.HasParsed B t := by
  obtain ⟨hst, he, hsub⟩ := hend
  obtain ⟨_, hcur, hout, _⟩ := h.running
  have hframe := h.frame.trans hm.frame
  have hb : t.busy = false := by rw [State.busy, hst, statusBusy_end]
  have hrem := (hframe.holdsStream hB).remainder hb hf hr (hm.consumed hcur hout).1
  exact ⟨hframe, ⟨hst, he, hsub⟩, hf, hcount, by rw [hres], by rw [hres, hrem]⟩

/-- A move of the framer is one of `ParseStream`: it ends with its result, or what is still to be done
gives the same result. -/
theorem Parsing.move (h : s₀.Parsing B s) (hB : s₀.holdsStream B) (hm : FramerMove s t) :
    (t.busy = true ∧ s₀.Parsing B t) ∨ s₀.HasParsed B t := by
  have hframe := h.frame.trans hm.frame
  have hs := h.frame.holdsStream hB
  have hlen := hs.1
  have hrun := hm.framerOk h.running
  have hfind (hf : s.fst ≠ .scan) : findHeader B s.cur = some s.cur :=
    hs.findHeader_of_headerAt (h.running.headerAt hf)
  obtain ⟨_, hcur, _⟩ := h.running
  obtain ⟨fuel, hlt, hrest⟩ := h.rest
  obtain ⟨f, rfl⟩ : ∃ f, fuel = f + 1 := ⟨fuel - 1, by omega⟩
  cases hm with
  | discard hf hl =>
    rw [parseLoop_no_header (findHeader_short (hlen ▸ hl))] at hrest
    refine .inr (h.hasParsed hB (.discard hf hl) ⟨rfl, rfl, rfl⟩ rfl rfl h.count ?_)
    rw [← hrest, s.discardAll_cur, hlen, List.drop_length]
    rfl
  | keep hf hw =>
    rw [parseLoop_partial (hfind (by rw [hf]; decide)) (hlen ▸ hw)] at hrest
    exact .inr (h.hasParsed hB (.keep hf hw) ⟨rfl, rfl, rfl⟩ rfl rfl h.count hrest.symm)
  | header | window =>
    exact .inl ⟨h.busy, hframe, h.busy, hrun h.busy, h.count, h.nows, f + 1, hlt, hrest⟩
  | scanOn hf hl hn =>
    refine .inl ⟨h.busy, hframe, h.busy, hrun h.busy, h.count, h.nows, f + 1, ?_, ?_⟩
    · exact hlt.trans (Nat.lt_succ_self _)
    · exact (parseLoop_next_header (hs.findHeader_of_not_headerAt hl hn)).symm.trans hrest
  | reject hf hw hr he =>
    obtain rfl := Option.some.inj ((hs.readRange (hlen ▸ hw)).symm.trans hr)
    refine .inl ⟨h.busy, hframe, h.busy, hrun h.busy, h.count, h.nows, f, ?_, ?_⟩
    · rw [s.skipByte_cur]; omega
    · rw [parseLoop_reject (hfind (by rw [hf]; decide)) (hlen ▸ hw)
        ((decodeMessage_error_iff _ _ _).2 he)] at hrest
      exact hrest
  | accept hf hw hr hd =>
    obtain rfl := Option.some.inj ((hs.readRange (hlen ▸ hw)).symm.trans hr)
    refine .inl ⟨h.busy, hframe, h.busy, hrun h.busy, ?_, fun k => ?_, f, ?_, ?_⟩
    · simp [h.count]
    · have hk := h.nows (k + 1)
      rw [← s.nowAt_draw] at hk
      rw [State.accept_out, List.length_append, List.length_singleton, Nat.add_assoc, Nat.add_comm 1]
      exact hk
    · simp only [State.accept_cur, State.draw_cur, Config.msgLen]; omega
    · rw [parseLoop_accept (hfind (by rw [hf]; decide)) (hlen ▸ hw)
        ((decodeMessage_ok_iff _ _ _).2 ⟨_, hd, rfl⟩)] at hrest
      have h0 := h.nows 0
      rw [Nat.add_zero] at h0
      rw [← h0] at hrest
      exact hrest

theorem runCommand_of_idle (n : Nat) (h : t.busy = false) : runCommand n t = .next t := by
  cases n <;> simp [runCommand, h]

theorem runCommand_succ {n : Nat} (hb : s.busy = true) (h : step s = .next t) :
    runCommand (n + 1) s = runCommand n t := by
  simp [runCommand, hb, h]

/-- A running framer ends within the steps it has left, with the result of `ParseStream`
(45_stream_framer.md R257, R259). -/
theorem Parsing.run (h : s₀.Parsing B s) (hB : s₀.holdsStream B) {n : Nat} (hn : s.stepsLeft ≤ n) :
    ∃ t, runCommand n s = .next t ∧ s₀.HasParsed B t := by
  induction n generalizing s with
  | zero => exact absurd (h.running.stepsLeft_pos.trans_le hn) (by decide)
  | succ n ih =>
    obtain ⟨t, hstep⟩ := h.running.step_isNext h.busy (h.frame.holdsStream hB)
    obtain ⟨hp, _⟩ := h.running
    have hm := step_framerMove hp h.busy hstep
    rw [runCommand_succ h.busy hstep]
    rcases h.move hB hm with ⟨hb, ht⟩ | ht
    · have hlt := hm.stepsLeft_lt hb
      exact ih ht (by omega)
    · exact ⟨t, runCommand_of_idle n ht.busy, ht⟩

/-- The write of 3 to `CMD` on an idle block (R45; 45_stream_framer.md R249). -/
theorem writeCmd_parse (hb : s.busy = false) :
    s.writeCmd 3 = { s.startParse with cmd := 3, port := .empty } := by
  rw [State.writeCmd, s.whenIdle_idle _ hb]
  rfl

/-- At the start of a `PARSE` the whole of `ParseStream` is still to be done. -/
theorem parsing_start (hp : s.port = .empty) : s.startParse.Parsing B s.startParse where
  frame := s.startParse.framerFrame_refl
  busy := s.startParse_busy
  running := ⟨hp, Nat.zero_le _, Nat.zero_le _, .inl rfl⟩
  count := rfl
  nows k := by rw [s.startParse_out, List.length_nil, Nat.zero_add]
  rest := ⟨B.length + 1, Nat.lt_succ_self _, rfl⟩

/-- `PARSE` on an idle block over the data `B`, run to `done`, gives what `ParseStream` gives on `B`
(45_stream_framer.md R259). -/
theorem command_parse (hb : s.busy = false) (hB : s.holdsStream B) :
    ∃ t, s.command 3 = .next t ∧ (s.writeCmd 3).HasParsed B t := by
  rw [State.command, writeCmd_parse hb]
  exact (parsing_start (s := { s with cmd := 3, port := .empty }) rfl).run hB le_rfl

end State

/-! ## The feed (30_encoding.md R124, R125) -/

/-- What a range write has written reads back. -/
theorem Memory.readRange_writeRange (m : Memory) (a : Nat) (vs : List Byte) :
    (m.writeRange a vs).readRange a vs.length = some vs := by
  have hread : ∀ i < vs.length, (m.writeRange a vs).read (a + i) = vs[i]? := fun i hi => by
    rw [Memory.read_writeRange, if_pos (by omega), Nat.add_sub_cancel_left]
  have hs : ((m.writeRange a vs).readRange a vs.length).isSome = true := by
    rw [Memory.readRange_isSome]
    intro i hi
    rw [hread i hi, List.getElem?_eq_getElem hi]
    rfl
  obtain ⟨bs, hbs⟩ := Option.isSome_iff_exists.1 hs
  have hl := Memory.readRange_length _ _ _ _ hbs
  rw [hbs, Option.some.injEq]
  refine List.ext_getElem? fun i => ?_
  by_cases hi : i < vs.length
  · rw [← Memory.readRange_get _ _ _ _ hbs i hi, hread i hi]
  · rw [List.getElem?_eq_none (by omega), List.getElem?_eq_none (by omega)]

namespace State

variable {s : State}

/-- A write of `LEN` to an idle block that is within the capacity (R49). -/
theorem writeLen_idle {n : Nat} (hb : s.busy = false) (hf : withinCap n = true) :
    s.writeLen n = { s with len := n, remReadable := false } := by
  rw [State.writeLen, s.whenIdle_idle _ hb, if_pos hf]

theorem loadBuf_idle {bs : List Byte} (hb : s.busy = false) (hf : withinCap bs.length = true) :
    s.loadBuf bs = { s with buf := s.buf.writeRange 0 bs, len := bs.length, remReadable := false } := by
  rw [State.loadBuf, s.memWrite_idle 0 bs hb (by rwa [Nat.zero_add])]
  exact writeLen_idle hb hf

theorem loadBuf_holdsStream {bs : List Byte} (hb : s.busy = false) (hf : withinCap bs.length = true) :
    (s.loadBuf bs).holdsStream bs := by
  rw [loadBuf_idle hb hf]
  exact ⟨rfl, Memory.readRange_writeRange _ _ _⟩

theorem carried_of_idle (hb : s.busy = false) (hf : s.fst = .idle) : s.carried = some [] := by
  rw [State.carried, if_pos hf, s.readIdle_idle _ hb]

theorem carried_of_not_idle (hf : s.fst ≠ .idle) : s.carried = s.remainder := if_neg hf

end State

/-- Settles O55: the feed loads the remainder and the chunk, and `command_parse` says what its `PARSE`
gives. -/
theorem feedCarriesTheRemainder : Obligations.FeedCarriesTheRemainder := by
  refine ⟨fun s rem chunk hb hc hf => ?_, fun s hb => ⟨State.carried_of_idle hb,
    State.carried_of_not_idle⟩, fun s chunk hc => ?_⟩
  · rw [← List.length_append] at hf
    have hload := State.loadBuf_idle hb hf
    have hB := State.loadBuf_holdsStream hb hf
    have hbl : (s.loadBuf (rem ++ chunk)).busy = false := by rw [hload]; exact hb
    have hnow : ((s.loadBuf (rem ++ chunk)).writeCmd 3).nowAt = s.nowAt := by
      rw [State.writeCmd_parse hbl, hload]; rfl
    refine ⟨⟨(s.loadBuf (rem ++ chunk)).writeCmd 3, ?_, ?_⟩, ?_⟩
    · rw [State.startFeed, hc]; rfl
    · rw [State.writeCmd_parse hbl]
      exact ⟨hB, rfl, rfl, (s.loadBuf (rem ++ chunk)).startParse_busy, rfl⟩
    · obtain ⟨t, hrun, ht⟩ := State.command_parse hbl hB
      have hout := ht.out
      have hrem := ht.remainder
      rw [hnow] at hout hrem
      refine ⟨t, ?_, ht.busy, ht.fst, hout, hrem⟩
      rw [State.feed, hc, Option.map_some, hrun]
  · simp [State.startFeed, State.feed, hc]

/-! ## The codec commands -/

/-- Settles O27: `Encode` reads neither part of the stamp, and `Decode` only copies the time. -/
theorem codecIgnoresTimeStamps : Obligations.CodecIgnoresTimeStamps := by
  refine ⟨fun x n k => rfl, fun F n m r h => ?_⟩
  obtain ⟨f, hf, rfl⟩ := (decodeMessage_ok_iff F n r).1 h
  exact ⟨rfl, (decodeMessage_ok_iff F m _).2 ⟨f, hf, rfl⟩⟩

/-- Every thermocouple code but 0 is the byte that carries it (41_enum_codec.md R163, R167). -/
theorem encTcReg_of_ne_zero {c : BitVec 3} (h : c ≠ 0) : encTcReg c = .ok (c.setWidth 8) := by
  revert c; decide

/-- Every unit code but 0 stands in its byte under the marker bit (41_enum_codec.md R164, R167). -/
theorem encUnitReg_of_ne_zero {c : BitVec 2} (h : c ≠ 0) :
    encUnitReg c = .ok (c.setWidth 8 ||| Config.unitMark) := by
  revert c; decide

/-- `PackTime` of a time written as hours, minutes and seconds (43_meter_time.md R202). -/
theorem packTime_of_joined {d : Duration} {hh mm ss : Byte} (h : d.sec.toNat = joinTime hh mm ss)
    (hm : mm.toNat ≤ 59) (hs : ss.toNat ≤ 59) : packTime d = .ok (hh, mm, ss) := by
  have hlt := hh.isLt
  unfold joinTime at h
  have h1 : d.sec.toNat / 3600 = hh.toNat := by omega
  have h2 : d.sec.toNat % 3600 / 60 = mm.toNat := by omega
  have h3 : d.sec.toNat % 3600 % 60 = ss.toNat := by omega
  simp only [packTime, splitTime, wholeSeconds, h1, h2, h3, BitVec.ofNat_toNat, BitVec.setWidth_eq]
  rw [if_neg (by omega)]

/-- The converse of `encodeMessage_ok`: where every check passes `Encode` answers the frame. -/
theorem encodeMessage_of_parts {x : Observation} {a b : F64} {k1 k2 : Int}
    {f1 f2 tb ub hh mm ss : Byte} (hx : x.channelTemp = [a, b]) (h1 : packTemp a = .ok (k1, f1))
    (h2 : packTemp b = .ok (k2, f2)) (htc : encTcReg x.tc = .ok tb)
    (hu : encUnitReg x.units = .ok ub) (ht : packTime x.meterTime = .ok (hh, mm, ss)) :
    encodeMessage x = .ok (messageFrame k1 f1 k2 f2 tb ub hh mm ss) := by
  simp only [encodeMessage, hx, h1, h2, htc, hu, ht]

/-- `ENCODE` on an idle block with written inputs that encode (R226). -/
theorem exec_cmdEncode_ok {s : State} {F : Frame} (hb : s.busy = false) (hr : s.encodeReady = true)
    (hF : encodeMessage (observationOf s.record) = .ok F) :
    exec .cmdEncode s = .next (s.beginCommand.setFrame F).endOk := by
  simp [exec, execCmdEncode, hb, hr, hF]

/-- Settles O28: the record encodes part by part, and `ENCODE` writes the frame. -/
theorem encodeCommandWritesTheFrame : Obligations.EncodeCommandWritesTheFrame := by
  intro s k1 k2 f1 f2 hh mm ss hb hr h1 h2 htc hu ht hm hs
  exact exec_cmdEncode_ok hb hr (encodeMessage_of_parts rfl h1 h2 (encTcReg_of_ne_zero htc)
    (encUnitReg_of_ne_zero hu) (packTime_of_joined ht hm hs))

/-- The validity of a channel is bit 3 of its flag byte (42_temperature.md R186). -/
theorem channelValid_eq (fl : Byte) : channelValid fl = fl.getLsbD 3 := by
  have h : Config.flagValid = BitVec.twoPow 8 3 := by decide
  rw [channelValid, testBit, maskByte, h, BitVec.and_twoPow]
  cases fl.getLsbD 3 <;> decide

/-- The converse of `decodeFrame_ok` on a frame of 18 bytes. -/
theorem decodeFrame_toList {F : Frame} {ty : ThermocoupleType} {u : TemperatureUnit}
    (h0 : F[0] = Config.hdr0) (h1 : F[1] = Config.hdr1) (h16 : F[16] = Config.trl0)
    (h17 : F[17] = Config.trl1) (htc : decTc F[9] = .ok ty) (hu : decUnit F[10] = .ok u) :
    decodeFrame F.toList = .ok (frameFields F ty u) := by
  have hh : eq2 F.toList 0 Config.hdr0 Config.hdr1 = true := by simp [eq2_iff, h0, h1]
  have ht : eq2 F.toList 16 Config.trl0 Config.trl1 = true := by simp [eq2_iff, h16, h17]
  have hF : ∀ h, frameOf F.toList h = F := fun h => Vector.toArray_inj.1 rfl
  have hlen : F.toList.length = 18 := F.length_toList
  have htc' : decTc (getU8 F 9) = .ok ty := htc
  have hu' : decUnit (getU8 F 10) = .ok u := hu
  rw [decodeFrame, dif_pos hlen, if_pos hh, if_pos ht, hF, htc']
  dsimp only
  rw [hu']

/-- `DECODE` on an idle block with a written frame that decodes (R222, R227). -/
theorem exec_cmdDecode_ok {s : State} {r : Record} (hb : s.busy = false) (hr : s.decodeReady = true)
    (hd : decodeMessage s.frame.toList (s.nowAt 0) = .ok r) :
    exec .cmdDecode s = .next (s.beginCommand.draw.setRecord r).endOk := by
  simp [exec, execCmdDecode, hb, hr, hd]

/-- Settles O29: the frame passes the checks, and `DECODE` writes the record of its fields. -/
theorem decodeCommandWritesTheRecord : Obligations.DecodeCommandWritesTheRecord := by
  intro s ty u hb hr h0 h1 h16 h17 htc hu
  rw [← channelValid_eq, ← channelValid_eq]
  exact exec_cmdDecode_ok hb hr ((decodeMessage_ok_iff _ _ _).2
    ⟨_, decodeFrame_toList h0 h1 h16 h17 htc hu, rfl⟩)

/-- A command that reaches a busy block is ignored (R45). -/
theorem exec_command_busy {s : State} (hb : s.busy = true) :
    exec .cmdEncode s = .next s ∧ exec .cmdDecode s = .next s ∧ exec .cmdParse s = .next s := by
  simp [exec, execCmdEncode, execCmdDecode, execCmdParse, hb]

/-- Settles O31, by what a write of `CMD` can do. -/
theorem nopAndIgnoredCommands : Obligations.NopAndIgnoredCommands := by
  intro s
  refine ⟨rfl, ?_, fun hb => ?_, fun hb c hc => ?_⟩
  · rcases s.writeCmd_cases 0 with ⟨_, h⟩ | ⟨_, h, _⟩ | ⟨_, h, _⟩
    · exact h
    · exact absurd h (by decide)
    · exact absurd h (by decide)
  · obtain ⟨he, hd, hp⟩ := exec_command_busy hb
    exact ⟨he, hd, hp, fun c => s.whenIdle_busy _ hb⟩
  · rcases s.writeCmd_cases c with ⟨hn | rfl, _⟩ | ⟨_, rfl, _⟩ | ⟨_, _, h⟩
    · exact absurd (hb.symm.trans hn) (by decide)
    · exact absurd hc (by decide)
    · exact absurd hc (by decide)
    · exact h

/-! ## State that nothing has written (R58; 60_exceptions.md R302) -/

theorem exec_cmdEncode_unwritten {s : State} (hb : s.busy = false) (hr : s.encodeReady = false) :
    exec .cmdEncode s = .refused .recordUnwritten := by
  simp [exec, execCmdEncode, hb, hr]

theorem exec_cmdDecode_unwritten {s : State} (hb : s.busy = false) (hr : s.decodeReady = false) :
    exec .cmdDecode s = .refused .frameUnwritten := by
  simp [exec, execCmdDecode, hb, hr]

/-- Settles O33: an unwritten field or byte makes the command not ready, and a range with an unwritten
byte has no value for the framer. -/
theorem unwrittenStateIsRefused : Obligations.UnwrittenStateIsRefused := by
  intro s
  refine ⟨fun hb => ⟨fun hf => exec_cmdEncode_unwritten hb ?_,
    fun o ho => exec_cmdDecode_unwritten hb ?_⟩, fun hp hb =>
      ⟨fun a hf hl ha hi hn => ?_, fun a hf hl ha hi hn => ?_⟩⟩
  · rcases hf with h | h | h | h | h <;> simp [State.encodeReady, h]
  · refine Bool.eq_false_iff.2 fun hr => ?_
    rw [eq_of_beq hr, BitVec.getLsbD_allOnes, decide_eq_true o.isLt] at ho
    exact absurd ho (by decide)
  · rw [step_scan hp hb hf, scanStep, if_neg (by omega), State.memRead_noValue hl ha hi hn]
  · rw [step, fetch_tryWin hp hb hf, fetchWindow, State.memRead_noValue hl ha hi hn]

/-! ## The step, reset, and the host's reads and writes -/

/-- What is presented at the port runs, the port emptied (R45). -/
theorem step_port_ok {s : State} {i : Instr} (h : decodePort s = some (.ok i)) :
    step s = exec i s.clearPort := by
  simp [step, fetch, h]

/-- A presented word that names no operation returns its error (30_encoding.md R117). -/
theorem step_port_error {s : State} {e : DecodeError} (h : decodePort s = some (.error e)) :
    step s = .next (s.clearPort.returns (rejectedResult e)) := by
  simp [step, fetch, h, State.answer]

/-- An idle block with an empty port does nothing (70_reset_and_hazards.md R312). -/
theorem step_idle {s : State} (hp : s.port = .empty) (hb : s.busy = false) : step s = .next s := by
  simp [step, fetch, (decodePort_none_iff s).2 hp, hb]

/-- Settles O48, by where the step fetches. -/
theorem stepRunsTheFetchedInstruction : Obligations.StepRunsTheFetchedInstruction := by
  intro s
  refine ⟨fun i hp hd => step_port_ok ?_, fun w i hp hd => step_port_ok ?_,
    fun i hp => step_port_ok ?_, fun w i hp hb hf hw hr hd => step_window_ok hp hb hf hw hr hd,
    fun w e hp hd => step_port_error ?_, fun e => rfl, rfl, rfl, step_idle⟩
  · simp only [decodePort, hp, hd]
  · simp only [decodePort, hp, hd]
  · simp only [decodePort, hp]
  · simp only [decodePort, hp, hd]

/-- Settles O49. -/
theorem resetValues : Obligations.ResetValues :=
  ⟨rfl, rfl, rfl, rfl, rfl, rfl, rfl, rfl, rfl, rfl, rfl, fun _ => rfl, step_idle rfl (by decide)⟩

/-- Settles O53: every host write goes through `whenIdle`, and every read but that of `STATUS` through
`readIdle`. -/
theorem busyBlockShutsTheHostOut : Obligations.BusyBlockShutsTheHostOut := by
  intro s hb
  have hw : ∀ t, s.whenIdle t = s := fun t => s.whenIdle_busy t hb
  have hr : ∀ {α : Type} (v : Option α), s.readIdle v = none := fun v => s.readIdle_busy v hb
  have hrem : s.remainder = none := hr _
  refine ⟨fun _ => hw _, fun _ _ => hw _, fun _ => hw _, fun _ _ => hw _, fun _ => hw _, fun _ => hw _,
    fun w => ?_, fun _ => hw _, fun _ => hr _, fun _ => hr _, fun _ => hr _, fun _ _ _ => hr _, hr _,
    hr _, hrem, ?_⟩
  · cases w <;> exact hw _
  · rw [State.carried]
    split
    · exact hr _
    · exact hrem

/-- The host's write of a field of `REC` on an idle block (R30, R31). -/
theorem State.writeField_idle {s : State} (hb : s.busy = false) (w : RecordWrite) :
    s.writeField w = s.putField w := s.whenIdle_idle _ hb

/-- A field that is marked as written reads as it stands (20_memory.md R88). -/
theorem State.readField_marked {s : State} {α : Type} {mark : RecordSet → Bool} (get : Record → α)
    (hb : s.busy = false) (hm : mark s.recordSet = true) :
    s.readField mark get = some (get s.record) := by
  rw [State.readField, s.readIdle_idle _ hb, if_pos hm]

/-- A byte of `FRAME` reads where it is marked as written (20_memory.md R88). -/
theorem State.readFrame_idle {s : State} (hb : s.busy = false) (o : Fin 18) :
    s.readFrame o = if s.frameSet.getLsbD o.val then some s.frame[o] else none :=
  s.readIdle_idle _ hb

/-- What a read of `FRAME` gives after the host's write of one byte (R37; 20_memory.md R88). -/
theorem State.readFrame_writeFrameByte {s : State} (hb : s.busy = false) (o o' : Fin 18) (b : Byte) :
    (s.writeFrameByte o b).readFrame o' = if o' = o then some b else s.readFrame o' := by
  have hread : (s.writeFrameByte o b).readFrame o' =
      if (s.frameSet ||| BitVec.twoPow 18 o.val).getLsbD o'.val then some (s.frame.set o b)[o']
      else none := by
    rw [State.writeFrameByte, s.whenIdle_idle _ hb]
    refine State.readFrame_idle ?_ o'
    exact hb
  rw [hread, State.readFrame_idle hb]
  by_cases h : o' = o
  · subst h
    simp
  · have hv : o'.val ≠ o.val := fun hv => h (Fin.ext hv)
    simp [h, hv, hv.symm, Vector.getElem_set_ne]

/-- Settles O54: each write puts the value and its mark, and the marked value reads back. -/
theorem hostWritesOfTheRegisters : Obligations.HostWritesOfTheRegisters := by
  intro s hb
  have hfield : ∀ (w : RecordWrite) {α : Type} {mark : RecordSet → Bool} (get : Record → α),
      (s.putField w).busy = false → mark (s.putField w).recordSet = true →
      s.writeField w = s.putField w ∧
        (s.writeField w).readField mark get = some (get (s.putField w).record) :=
    fun w α mark get hbw hm => by
      rw [State.writeField_idle hb]
      exact ⟨rfl, State.readField_marked get hbw hm⟩
  have hall : ∀ F, s.setFrameAll F = s.setFrame F := fun F => s.whenIdle_idle _ hb
  refine ⟨fun v => hfield (.t0 v) _ hb rfl, fun v => hfield (.t1 v) _ hb rfl,
    fun c => hfield (.units c) _ hb rfl, fun c => hfield (.tc c) _ hb rfl,
    fun n => hfield (.systemTime n) _ hb rfl, fun d => hfield (.meterTime d) _ hb rfl,
    fun o b => ⟨?_, ?_, fun o' ho => ?_⟩, fun F => ⟨hall F, fun o => ?_⟩⟩
  · rw [State.readFrame_writeFrameByte hb, if_pos rfl]
  · rw [State.writeFrameByte, s.whenIdle_idle _ hb]
  · rw [State.readFrame_writeFrameByte hb, if_neg ho]
  · have hm : (s.setFrame F).frameSet.getLsbD o.val = true := by
      rw [s.setFrame_frameSet, BitVec.getLsbD_allOnes, decide_eq_true o.isLt]
    rw [hall, State.readFrame_idle (s.setFrame_busy F ▸ hb), if_pos hm, s.setFrame_frame]

end Sys2Proof.Machine
end

section
/-! PROOFS. The statement of 20_memory.md: no step faults under the invariant (R72;
45_stream_framer.md R257). No operation faults, and the framer reads only below `LEN`. -/

namespace Sys2Proof.Machine

theorem notFault_next (s : State) : notFault (.next s) := fun _ h => nomatch h

theorem notFault_refused (r : Refusal) : notFault (.refused r) := fun _ h => nomatch h

/-! ## No operation faults -/

theorem execFrame18_notFault (f : FrameFields) (s : State) : notFault (execFrame18 f s) := by
  unfold execFrame18
  split <;> exact notFault_next _

theorem execCmdEncode_notFault (s : State) : notFault (execCmdEncode s) := by
  unfold execCmdEncode
  split
  · exact notFault_next _
  · split
    · split <;> exact notFault_next _
    · exact notFault_refused _

theorem execCmdDecode_notFault (s : State) : notFault (execCmdDecode s) := by
  unfold execCmdDecode
  split
  · exact notFault_next _
  · split
    · split <;> exact notFault_next _
    · exact notFault_refused _

theorem execCmdParse_notFault (s : State) : notFault (execCmdParse s) := by
  unfold execCmdParse
  split <;> exact notFault_next _

/-- Every row but the accepted frame and the commands returns a value (00_scope.md R15). -/
theorem exec_notFault (i : Instr) (s : State) : notFault (exec i s) := by
  cases i with
  | frame18 f => exact execFrame18_notFault f s
  | cmdEncode => exact execCmdEncode_notFault s
  | cmdDecode => exact execCmdDecode_notFault s
  | cmdParse => exact execCmdParse_notFault s
  | _ => exact notFault_next _

/-! ## The framer reads only below `LEN` (R72) -/

theorem State.memRead_ne_beyondLen {s : State} {a n : Nat} (h : a + n ≤ s.len) :
    s.memRead a n ≠ .beyondLen := by
  rcases s.memRead_cases a n with ⟨bs, hm, _⟩ | ⟨_, hlt⟩ | ⟨hm, _⟩
  · simp [hm]
  · omega
  · simp [hm]

/-- `SCAN` reads two bytes only after it has found them below `LEN` (45_stream_framer.md R250). -/
theorem scanStep_notFault (s : State) : notFault (scanStep s) := by
  unfold scanStep
  split
  · exact notFault_next _
  · have hread : s.memRead s.cur 2 ≠ .beyondLen := State.memRead_ne_beyondLen (by omega)
    split
    · split <;> exact notFault_next _
    · exact absurd ‹_› hread
    · exact notFault_refused _

theorem lenchkStep_notFault (s : State) : notFault (lenchkStep s) := by
  unfold lenchkStep
  split <;> exact notFault_next _

/-- `TRY` decodes a window below `LEN` without a fault (45_stream_framer.md R253, R255). -/
theorem step_tryWin_notFault {s : State} (hp : s.port = .empty) (hb : s.busy = true)
    (hf : s.fst = .tryWin) (hw : s.cur + 18 ≤ s.len) : notFault (step s) := by
  rcases s.memRead_cases s.cur 18 with ⟨w, _, _, hr, _⟩ | ⟨_, hlt⟩ | ⟨hm, _⟩
  · cases hd : decode (.frame w) with
    | ok i =>
      rw [step_window_ok hp hb hf hw hr hd]
      exact exec_notFault i s
    | error e =>
      rw [step_window_error hp hb hf hw hr hd]
      exact notFault_next _
  · omega
  · rw [step, fetch_tryWin hp hb hf, fetchWindow, Config.msgLen, hm]
    exact notFault_refused _

/-! ## No step faults -/

/-- The conditions of a running framer leave it no stuck state: `FST` names a step, and the window is
there in `TRY` (45_stream_framer.md R256, R257). -/
theorem State.framerOk.step_notFault {s : State} (h : s.framerOk) (hb : s.busy = true) :
    notFault (step s) := by
  obtain ⟨hp, _, _, hf | ⟨hf, _⟩ | ⟨hf, _, hw⟩⟩ := h
  · rw [step_scan hp hb hf]
    exact scanStep_notFault s
  · rw [step_lenchk hp hb hf]
    exact lenchkStep_notFault s
  · exact step_tryWin_notFault hp hb hf hw

/-- What stands at the port never faults: it runs an operation or returns an error. -/
theorem step_notFault_of_port {s : State} (hp : s.port ≠ .empty) : notFault (step s) := by
  cases hd : decodePort s with
  | none => exact absurd ((decodePort_none_iff s).1 hd) hp
  | some d =>
    cases d with
    | ok i =>
      rw [step_port_ok hd]
      exact exec_notFault i _
    | error e =>
      rw [step_port_error hd]
      exact notFault_next _

/-- Settles O58: what stands at the port never faults, an idle block does nothing, and on a busy one the
invariant gives the conditions of a running framer. -/
theorem noStepFaultsUnderTheInvariant : Obligations.NoStepFaultsUnderTheInvariant := by
  intro s h
  by_cases hp : s.port = .empty
  · cases hb : s.busy with
    | false =>
      rw [step_idle hp hb]
      exact notFault_next s
    | true => exact (h.framerOk hp hb).step_notFault hb
  · exact step_notFault_of_port hp

end Sys2Proof.Machine
end

section
/-! PROOFS. The statements of 30_encoding.md: the decoder and the encoder undo each other (R101, R106
to R108, R119, R120), the mask and match of a frame (R113), and the values of the `ENUM4` rows
(R116). -/

namespace Sys2Proof.Machine

/-! ## The enum bytes (R106, R107) -/

/-- The low nibble of a byte that decodes to a unit is the unit's code (41_enum_codec.md R160, R162). -/
theorem append_of_decUnit {b : Byte} {u : TemperatureUnit} (h : decUnit b = .ok u) :
    highNibble b ++ (unitCode u).setWidth 4 = b := by
  rw [unitCode_of_unitOfCode _ _ ((decUnit_ok_iff b u).1 h), highNibble_append_lowNibble]

/-- The low nibble of a byte that decodes to a type is the type's code (41_enum_codec.md R161, R165). -/
theorem append_of_decTc {b : Byte} {ty : ThermocoupleType} (h : decTc b = .ok ty) :
    highNibble b ++ (tcCode ty).setWidth 4 = b := by
  rw [tcCode_of_tcOfCode _ _ ((decTc_ok_iff b ty).1 h), highNibble_append_lowNibble]

theorem encode_unitInstr (high : BitVec 4) (u : TemperatureUnit) :
    encode (unitInstr high u) = some (.unitByte (unitByteOf high u)) := by cases u <;> rfl

theorem encode_tcInstr (high : BitVec 4) (ty : ThermocoupleType) :
    encode (tcInstr high ty) = some (.tcByte (tcByteOf high ty)) := by cases ty <;> rfl

theorem decode_unitByteOf (high : BitVec 4) (u : TemperatureUnit) :
    decode (.unitByte (unitByteOf high u)) = .ok (unitInstr high u) := by
  simp [decode, unitByteOf]

theorem decode_tcByteOf (high : BitVec 4) (ty : ThermocoupleType) :
    decode (.tcByte (tcByteOf high ty)) = .ok (tcInstr high ty) := by
  simp [decode, tcByteOf]

/-- An accepted unit byte is the byte of its row (R107, R119). -/
theorem encode_of_decode_unitByte {b : Byte} {i : Instr} (h : decode (.unitByte b) = .ok i) :
    encode i = some (.unitByte b) := by
  simp only [decode] at h
  split at h
  · rename_i u hu
    rw [← Except.ok.inj h, encode_unitInstr, unitByteOf, append_of_decUnit hu]
  · cases h

/-- An accepted thermocouple byte is the byte of its row (R106, R119). -/
theorem encode_of_decode_tcByte {b : Byte} {i : Instr} (h : decode (.tcByte b) = .ok i) :
    encode i = some (.tcByte b) := by
  simp only [decode] at h
  split at h
  · rename_i ty hty
    rw [← Except.ok.inj h, encode_tcInstr, tcByteOf, append_of_decTc hty]
  · cases h

/-! ## The flag bytes (R108) -/

theorem testBit_valid (b : Byte) : testBit b .valid = b.getLsbD 3 := channelValid_eq b

theorem testBit_invalid (b : Byte) : testBit b .invalid = b.getLsbD 6 := by
  have h : Config.flagInvalid = BitVec.twoPow 8 6 := by decide
  rw [testBit, maskByte, h, BitVec.and_twoPow]
  cases b.getLsbD 6 <;> decide

/-- Everything the decoder can make of a flag byte (R108; 42_temperature.md R186, R187). -/
theorem decodeFlag_cases (b : Byte) :
    (b.getLsbD 3 = true ∧
        decodeFlag b = .ok (.flagValid (b.extractLsb' 4 4) (b.extractLsb' 0 3))) ∨
      (b.getLsbD 3 = false ∧ b.getLsbD 6 = true ∧ decodeFlag b =
        .ok (.flagInvalid (b.extractLsb' 7 1) (b.extractLsb' 4 2) (b.extractLsb' 0 3))) ∨
      (b.getLsbD 3 = false ∧ b.getLsbD 6 = false ∧ decodeFlag b = .error .noFlag) := by
  rw [decodeFlag, testBit_valid, testBit_invalid]
  cases b.getLsbD 3 <;> cases b.getLsbD 6 <;> simp

/-- A byte with bit 3 set is put together again from its other bits. -/
theorem flagValidByte_extract {b : Byte} (h3 : b.getLsbD 3 = true) :
    flagValidByte (b.extractLsb' 4 4) (b.extractLsb' 0 3) = b := by
  ext i hi
  simp only [flagValidByte, ← BitVec.getLsbD_eq_getElem]
  grind

/-- A byte with bit 6 set and bit 3 clear is put together again from its other bits. -/
theorem flagInvalidByte_extract {b : Byte} (h3 : b.getLsbD 3 = false) (h6 : b.getLsbD 6 = true) :
    flagInvalidByte (b.extractLsb' 7 1) (b.extractLsb' 4 2) (b.extractLsb' 0 3) = b := by
  ext i hi
  simp only [flagInvalidByte, ← BitVec.getLsbD_eq_getElem]
  grind

theorem decodeFlag_flagValidByte (high : BitVec 4) (low : BitVec 3) :
    decodeFlag (flagValidByte high low) = .ok (.flagValid high low) := by
  have h3 : (flagValidByte high low).getLsbD 3 = true := by
    simp only [flagValidByte, BitVec.getLsbD_append]; rfl
  have hhigh : (flagValidByte high low).extractLsb' 4 4 = high :=
    (BitVec.extractLsb'_append_eq_of_le (by decide)).trans BitVec.extractLsb'_append_eq_left
  have hlow : (flagValidByte high low).extractLsb' 0 3 = low := BitVec.extractLsb'_append_eq_right
  rw [decodeFlag, testBit_valid, h3, if_pos rfl, hhigh, hlow]

theorem decodeFlag_flagInvalidByte (b7 : BitVec 1) (mid : BitVec 2) (low : BitVec 3) :
    decodeFlag (flagInvalidByte b7 mid low) = .ok (.flagInvalid b7 mid low) := by
  have h3 : (flagInvalidByte b7 mid low).getLsbD 3 = false := by
    simp only [flagInvalidByte, BitVec.getLsbD_append]; rfl
  have h6 : (flagInvalidByte b7 mid low).getLsbD 6 = true := by
    simp only [flagInvalidByte, BitVec.getLsbD_append]; rfl
  have hb7 : (flagInvalidByte b7 mid low).extractLsb' 7 1 = b7 := by
    rw [flagInvalidByte, BitVec.extractLsb'_append_eq_of_le (by decide),
      BitVec.extractLsb'_append_eq_of_le (by decide), BitVec.extractLsb'_append_eq_of_le (by decide)]
    exact BitVec.extractLsb'_append_eq_left
  have hmid : (flagInvalidByte b7 mid low).extractLsb' 4 2 = mid := by
    rw [flagInvalidByte, BitVec.extractLsb'_append_eq_of_le (by decide),
      BitVec.extractLsb'_append_eq_of_le (by decide)]
    exact BitVec.extractLsb'_append_eq_right
  have hlow : (flagInvalidByte b7 mid low).extractLsb' 0 3 = low :=
    BitVec.extractLsb'_append_eq_right
  rw [decodeFlag, testBit_valid, h3, testBit_invalid, h6, if_neg (by decide), if_pos rfl, hb7, hmid,
    hlow]

/-- An accepted flag byte is the byte of its row (R108, R119). -/
theorem encode_of_decodeFlag {b : Byte} {i : Instr} (h : decodeFlag b = .ok i) :
    encode i = some (.flagByte b) := by
  rcases decodeFlag_cases b with ⟨h3, hb⟩ | ⟨h3, h6, hb⟩ | ⟨_, _, hb⟩
  · rw [← Except.ok.inj (hb.symm.trans h), encode, flagValidByte_extract h3]
  · rw [← Except.ok.inj (hb.symm.trans h), encode, flagInvalidByte_extract h3 h6]
  · exact nomatch hb.symm.trans h

/-! ## The frame (R101) -/

/-- The four constant bytes of `FRAME18` (R101, R113). -/
def frameConstants (F : Frame) : Prop :=
  F[0] = Config.hdr0 ∧ F[1] = Config.hdr1 ∧ F[16] = Config.trl0 ∧ F[17] = Config.trl1

/-- A frame decodes exactly when it has the constants and two codes, and then to the fields of its
bytes (R117; 44_message_codec.md R219 to R221). -/
theorem decodeFrame_toList_iff {F : Frame} {f : FrameFields} :
    decodeFrame F.toList = .ok f ↔ frameConstants F ∧ decTc F[9] = .ok f.tc ∧
      decUnit F[10] = .ok f.units ∧ f = frameFields F f.tc f.units := by
  constructor
  · intro h
    obtain ⟨hl, ty, u, hh, ht, htc, hu, rfl⟩ := decodeFrame_ok _ _ h
    have hF : frameOf F.toList hl = F := Vector.toArray_inj.1 rfl
    obtain ⟨h0, h1⟩ := (eq2_iff _ _ _ _).1 hh
    obtain ⟨h16, h17⟩ := (eq2_iff _ _ _ _).1 ht
    rw [hF]
    exact ⟨⟨by simpa using h0, by simpa using h1, by simpa using h16, by simpa using h17⟩, htc, hu,
      rfl⟩
  · rintro ⟨⟨h0, h1, h16, h17⟩, htc, hu, hf⟩
    rw [decodeFrame_toList h0 h1 h16 h17 htc hu, ← hf]

/-- Three bytes put together are the 24 bits they were cut from. -/
theorem extract_pad (p : BitVec 24) :
    p.extractLsb' 16 8 ++ p.extractLsb' 8 8 ++ p.extractLsb' 0 8 = p := by
  ext i hi
  grind

theorem frameFields_encodeFrame (f : FrameFields) :
    frameFields (encodeFrame f) f.tc f.units = f := by
  have hpad := extract_pad f.pad
  have hm1 := hiByte_append_loByte f.m1
  have hm2 := hiByte_append_loByte f.m2
  simp [frameFields, encodeFrame, getU8, getU16BE, hpad, hm1, hm2]

/-- Every choice of the fields decodes from its frame (R101). -/
theorem decodeFrame_encodeFrame (f : FrameFields) : decodeFrame (encodeFrame f).toList = .ok f :=
  decodeFrame_toList_iff.2 ⟨⟨rfl, rfl, rfl, rfl⟩, decTc_append f.tcHigh f.tc,
    decUnit_append f.unitHigh f.units, (frameFields_encodeFrame f).symm⟩

/-- The fields of a frame with the constants and two codes hold all its other bits (R119). -/
theorem encodeFrame_frameFields {F : Frame} {ty : ThermocoupleType} {u : TemperatureUnit}
    (hc : frameConstants F) (htc : decTc F[9] = .ok ty) (hu : decUnit F[10] = .ok u) :
    encodeFrame (frameFields F ty u) = F := by
  obtain ⟨h0, h1, h16, h17⟩ := hc
  have h9 := append_of_decTc htc
  have h10 := append_of_decUnit hu
  have h2 : (F[2] ++ F[3] ++ F[4]).extractLsb' 16 8 = F[2] :=
    (BitVec.extractLsb'_append_eq_of_le (by decide)).trans BitVec.extractLsb'_append_eq_left
  have h3 : (F[2] ++ F[3] ++ F[4]).extractLsb' 8 8 = F[3] :=
    (BitVec.extractLsb'_append_eq_of_le (by decide)).trans BitVec.extractLsb'_append_eq_right
  have h4 : (F[2] ++ F[3] ++ F[4]).extractLsb' 0 8 = F[4] := BitVec.extractLsb'_append_eq_right
  ext i hi
  interval_cases i <;>
    simp [encodeFrame, frameFields, getU8, getU16BE, h0, h1, h2, h3, h4, h9, h10, h16, h17]

/-- An accepted byte sequence is the frame of its fields (R101, R119). -/
theorem encodeFrame_of_decodeFrame {w : List Byte} {f : FrameFields} (h : decodeFrame w = .ok f) :
    (encodeFrame f).toList = w := by
  obtain ⟨hl, _⟩ := decodeFrame_ok w f h
  rw [← frameOf_toList w hl] at h ⊢
  obtain ⟨hc, htc, hu, hf⟩ := decodeFrame_toList_iff.1 h
  rw [hf, encodeFrame_frameFields hc htc hu]

/-! ## The decoder and the encoder undo each other -/

/-- The four command codes are told apart (R120). -/
theorem encode_decodeCommand : ∀ c : BitVec 2, encode (decodeCommand c) = some (.command c) := by
  decide

/-- Settles O1, format by format; a `FUNC` row has no word (R116). -/
theorem decodeOfEncodeGivesTheInstruction : Obligations.DecodeOfEncodeGivesTheInstruction := by
  intro i w h
  cases i with
  | frame18 f => cases h; rw [decode, decodeFrame_encodeFrame]
  | unitC high | unitF high | unitK high => cases h; exact decode_unitByteOf high _
  | tcK high | tcJ high | tcT high | tcE high | tcR high | tcS high | tcN high =>
    cases h; exact decode_tcByteOf high _
  | flagValid high low => cases h; exact decodeFlag_flagValidByte high low
  | flagInvalid b7 mid low => cases h; exact decodeFlag_flagInvalidByte b7 mid low
  | cmdNop | cmdEncode | cmdDecode | cmdParse => cases h; rfl
  | _ => cases h

/-- Settles O2, format by format. -/
theorem encodeOfDecodeGivesTheWord : Obligations.EncodeOfDecodeGivesTheWord := by
  intro w i h
  cases w with
  | frame w =>
    obtain ⟨f, hf, rfl⟩ := decode_frame_ok w i h
    rw [encode, encodeFrame_of_decodeFrame hf]
  | unitByte b => exact encode_of_decode_unitByte h
  | tcByte b => exact encode_of_decode_tcByte h
  | flagByte b => exact encode_of_decodeFlag h
  | command c =>
    rw [← Except.ok.inj h]
    exact encode_decodeCommand c

/-! ## The mask and match of a frame (R113) -/

/-- The numbers of the bytes, read on from a number already read. -/
theorem foldl_eq_bytesNat (bs : List Byte) (n : Nat) :
    bs.foldl (fun acc b => acc * 256 + b.toNat) n = n * 2 ^ (8 * bs.length) + bytesNat bs := by
  induction bs generalizing n with
  | nil => simp [bytesNat]
  | cons b bs ih =>
    rw [bytesNat, List.foldl_cons, List.foldl_cons, ih, ih (0 * 256 + b.toNat), List.length_cons]
    ring

theorem bytesNat_append (as bs : List Byte) :
    bytesNat (as ++ bs) = bytesNat as * 2 ^ (8 * bs.length) + bytesNat bs := by
  rw [bytesNat, List.foldl_append, foldl_eq_bytesNat, ← bytesNat]

theorem bytesNat_lt (bs : List Byte) : bytesNat bs < 2 ^ (8 * bs.length) := by
  induction bs using List.reverseRecOn with
  | nil => simp [bytesNat]
  | append_singleton bs b ih =>
    have hb : bytesNat [b] < 256 := by simpa [bytesNat] using b.isLt
    rw [bytesNat_append, List.length_append, Nat.mul_add, Nat.pow_add]
    simp only [List.length_singleton]
    omega

theorem toNat_append_eq_add {m n : Nat} (x : BitVec m) (y : BitVec n) :
    (x ++ y).toNat = x.toNat * 2 ^ n + y.toNat := by
  rw [BitVec.toNat_append, ← Nat.shiftLeft_add_eq_or_of_lt y.isLt, Nat.shiftLeft_eq]

theorem append_eq_append_iff {m n : Nat} {a c : BitVec m} {b d : BitVec n} :
    a ++ b = c ++ d ↔ a = c ∧ b = d := by
  constructor
  · intro h
    have hhigh := congrArg (BitVec.extractLsb' n m) h
    have hlow := congrArg (BitVec.extractLsb' 0 n) h
    simp only [BitVec.extractLsb'_append_eq_left, BitVec.extractLsb'_append_eq_right] at hhigh hlow
    exact ⟨hhigh, hlow⟩
  · rintro ⟨rfl, rfl⟩
    rfl

theorem bytesNat_pair (a b : Byte) : bytesNat [a, b] = (a ++ b).toNat := by
  rw [toNat_append_eq_add]
  simp [bytesNat]

/-- The fourteen bytes between the header and the trailer (R101). -/
def middleBytes (F : Frame) : List Byte := F.toList.extract 2 16

theorem middleBytes_length (F : Frame) : (middleBytes F).length = 14 := by simp [middleBytes]

theorem toList_eq_middleBytes (F : Frame) :
    F.toList = [F[0], F[1]] ++ middleBytes F ++ [F[16], F[17]] := by
  refine List.ext_getElem (by simp [middleBytes]) fun i hi _ => ?_
  have hi' : i < 18 := by simpa using hi
  interval_cases i <;> simp [middleBytes]

/-- The 144 bits of a frame: header, middle, trailer (10_state.md R37). -/
theorem frameWord_eq (F : Frame) : frameWord F =
    (F[0] ++ F[1]) ++ BitVec.ofNat 112 (bytesNat (middleBytes F)) ++ (F[16] ++ F[17]) := by
  have hmid : (BitVec.ofNat 112 (bytesNat (middleBytes F))).toNat = bytesNat (middleBytes F) := by
    have h := bytesNat_lt (middleBytes F)
    rw [middleBytes_length] at h
    exact Nat.mod_eq_of_lt h
  have hword : bytesNat F.toList =
      ((F[0] ++ F[1]) ++ BitVec.ofNat 112 (bytesNat (middleBytes F)) ++ (F[16] ++ F[17])).toNat := by
    rw [toNat_append_eq_add, toNat_append_eq_add (F[0] ++ F[1]), hmid, toList_eq_middleBytes,
      bytesNat_append, bytesNat_append, bytesNat_pair, bytesNat_pair, middleBytes_length]
    rfl
  rw [frameWord, hword, BitVec.ofNat_toNat]
  rfl

/-- The mask keeps the header and the trailer, so the match asks for the constants (R113). -/
theorem frameWord_matches_iff (F : Frame) :
    frameWord F &&& frameMask = frameMatch ↔ frameConstants F := by
  have hmask : frameMask = BitVec.allOnes 16 ++ 0#112 ++ BitVec.allOnes 16 := by decide
  have hmatch : frameMatch =
      (Config.hdr0 ++ Config.hdr1) ++ 0#112 ++ (Config.trl0 ++ Config.trl1) := by decide
  rw [frameWord_eq, hmask, hmatch, BitVec.and_append, BitVec.and_append, BitVec.and_allOnes,
    BitVec.and_allOnes, BitVec.and_zero, append_eq_append_iff, append_eq_append_iff,
    append_eq_append_iff, append_eq_append_iff, eq_self, and_true, and_assoc]
  rfl

theorem lowNibble_toNat (b : Byte) : (lowNibble b).toNat = b.toNat % 16 := by simp [lowNibble]

/-- The nibbles that `DecTc` accepts (R113, R118; 41_enum_codec.md R166). -/
theorem decTc_accepts_iff (b : Byte) :
    (∃ ty, decTc b = .ok ty) ↔ 1 ≤ b.toNat % 16 ∧ b.toNat % 16 ≤ 7 := by
  have h : ∀ n : BitVec 4, (tcOfCode n).isSome ↔ 1 ≤ n.toNat ∧ n.toNat ≤ 7 := by decide
  simp only [decTc_ok_iff, ← Option.isSome_iff_exists, h, lowNibble_toNat]

/-- The nibbles that `DecUnit` accepts (R113, R118; 41_enum_codec.md R166). -/
theorem decUnit_accepts_iff (b : Byte) :
    (∃ u, decUnit b = .ok u) ↔ 1 ≤ b.toNat % 16 ∧ b.toNat % 16 ≤ 3 := by
  have h : ∀ n : BitVec 4, (unitOfCode n).isSome ↔ 1 ≤ n.toNat ∧ n.toNat ≤ 3 := by decide
  simp only [decUnit_ok_iff, ← Option.isSome_iff_exists, h, lowNibble_toNat]

/-- `Decode` accepts the frames with the constants and two codes (44_message_codec.md R221). -/
theorem decodeMessage_accepts_iff (F : Frame) (now : Time) :
    (∃ r, decodeMessage F.toList now = .ok r) ↔
      frameConstants F ∧ (∃ ty, decTc F[9] = .ok ty) ∧ ∃ u, decUnit F[10] = .ok u := by
  constructor
  · rintro ⟨r, hr⟩
    obtain ⟨f, hf, _⟩ := (decodeMessage_ok_iff _ _ _).1 hr
    obtain ⟨hc, htc, hu, _⟩ := decodeFrame_toList_iff.1 hf
    exact ⟨hc, ⟨_, htc⟩, _, hu⟩
  · rintro ⟨hc, ⟨ty, htc⟩, u, hu⟩
    have hf : decodeFrame F.toList = .ok (frameFields F ty u) :=
      decodeFrame_toList_iff.2 ⟨hc, htc, hu, rfl⟩
    exact ⟨_, (decodeMessage_ok_iff _ _ _).2 ⟨_, hf, rfl⟩⟩

/-- Settles O5: the match is the constants, and each range is what an enum decoder accepts. -/
theorem frameMatchAndMask : Obligations.FrameMatchAndMask := by
  intro F now
  refine ⟨frameWord_matches_iff F, ?_⟩
  rw [decodeMessage_accepts_iff, frameWord_matches_iff, decTc_accepts_iff, decUnit_accepts_iff,
    and_assoc]

/-! ## Words written out (R120, R121) -/

/-- Settles O3: each word is the encoding of the operation named. -/
theorem writtenOutWordsDecode : Obligations.WrittenOutWordsDecode := by
  have hdecode : ∀ {i w}, encode i = some w → decode w = .ok i :=
    fun {i w} => decodeOfEncodeGivesTheInstruction i w
  exact ⟨hdecode (by decide), hdecode rfl, hdecode rfl, hdecode rfl, hdecode rfl, hdecode rfl⟩

/-- Settles O4: the decoder reads every code as a command (R121). -/
theorem commandCodesAreAllAssigned : Obligations.CommandCodesAreAllAssigned :=
  ⟨rfl, rfl, rfl, rfl, fun c => ⟨decodeCommand c, rfl⟩⟩

/-! ## What the `ENUM4` rows return (41_enum_codec.md R160, R161) -/

/-- The row of a unit returns the unit, whatever the high nibble (R107). -/
theorem exec_unitInstr (high : BitVec 4) (u : TemperatureUnit) (s : State) :
    exec (unitInstr high u) s = .next (s.returns (.unit u)) := by
  have hr : unitResult (unitByteOf high u) = .unit u := by simp [unitResult, unitByteOf, resultOf]
  have hx : exec (unitInstr high u) s = s.answer (unitResult (unitByteOf high u)) := by
    cases u <;> rfl
  rw [hx, hr, State.answer]

/-- The row of a thermocouple type returns the type, whatever the high nibble (R106). -/
theorem exec_tcInstr (high : BitVec 4) (ty : ThermocoupleType) (s : State) :
    exec (tcInstr high ty) s = .next (s.returns (.tc ty)) := by
  have hr : tcResult (tcByteOf high ty) = .tc ty := by simp [tcResult, tcByteOf, resultOf]
  have hx : exec (tcInstr high ty) s = s.answer (tcResult (tcByteOf high ty)) := by
    cases ty <;> rfl
  rw [hx, hr, State.answer]

/-- Settles O8: each row is the row of a unit or of a type. -/
theorem enumRowsReturnTheirValue : Obligations.EnumRowsReturnTheirValue := fun h s =>
  ⟨exec_unitInstr h .celsius s, exec_unitInstr h .fahrenheit s, exec_unitInstr h .kelvin s,
    exec_tcInstr h .k s, exec_tcInstr h .j s, exec_tcInstr h .t s, exec_tcInstr h .e s,
    exec_tcInstr h .r s, exec_tcInstr h .s s, exec_tcInstr h .n s⟩

end Sys2Proof.Machine
end

section
/-! PROOFS. The statements of 40_field_primitives.md: the reads and writes of a frame (R141 to R147),
the byte tests (R148 to R150), and what an operation does outside its domain
(notes/assumptions/13.md). -/

namespace Sys2Proof.Machine

/-! ## The value of a 16-bit field (R142 to R144; 00_scope.md R12) -/

theorem half_toNat (a b : Byte) : (a ++ b : Half).toNat = a.toNat * 256 + b.toNat :=
  toNat_append_eq_add a b

theorem half_toNat_cast (a b : Byte) :
    ((a ++ b : Half).toNat : Int) = a.toNat * 256 + b.toNat := by
  rw [half_toNat, Nat.cast_add, Nat.cast_mul, Nat.cast_ofNat]

/-- `sext_16` by the unsigned value (00_scope.md R12). -/
theorem sext16_eq (u : Half) :
    sext16 u = if u.toNat < 32768 then (u.toNat : Int) else (u.toNat : Int) - 65536 := by
  rw [sext16, BitVec.toInt_eq_toNat_cond]
  split <;> split <;> omega

/-- The unsigned value of `u16(k)` (00_scope.md R12). -/
theorem u16_toNat {k : Int} (h : inS16 k = true) :
    ((u16 k).toNat : Int) = if 0 ≤ k then k else k + 65536 := by
  have hk := sext16_u16 k h
  have hlt := (u16 k).isLt
  rw [sext16_eq] at hk
  split at hk <;> split <;> omega

/-- Settles O11: each read is the two bytes put together, and `GetS16BE` its `sext_16`. -/
theorem fieldReadsComplete : Obligations.FieldReadsComplete := by
  intro F s
  refine ⟨fun o => rfl, fun o h => ⟨⟨_, rfl, half_toNat _ _⟩, ⟨_, rfl, half_toNat _ _⟩, _, rfl, ?_⟩⟩
  rw [getS16BE, sext16_eq, getU16BE, half_toNat_cast, half_toNat]

/-! ## The count an operand stands for (notes/assumptions/13.md) -/

theorem inS16_iff (k : Int) : inS16 k = true ↔ -32768 ≤ k ∧ k ≤ 32767 := by simp [inS16]

theorem countOperand_inside {k : Int} (h : inS16 k = true) : countOperand k = k := if_pos h

theorem countOperand_outside {k : Int} (h : inS16 k = false) :
    countOperand k = sext16 (Config.freeCount k) := by rw [countOperand, h]; rfl

/-! ## The writes of a 16-bit field (R146, R147) -/

section
variable (F : Frame) (o : Fin 17) (k : Int)

/-- `PutS16BE` puts the more significant byte at the lower offset. -/
theorem putS16BE_append : (putS16BE F o k)[o.val] ++ (putS16BE F o k)[o.val + 1] = u16 k := by
  simp [putS16BE]

/-- `PutS16LE` puts the less significant byte at the lower offset. -/
theorem putS16LE_append : (putS16LE F o k)[o.val + 1] ++ (putS16LE F o k)[o.val] = u16 k := by
  simp [putS16LE]

theorem putS16BE_of_ne {j : Nat} (hj : j < 18) (h0 : j ≠ o.val) (h1 : j ≠ o.val + 1) :
    (putS16BE F o k)[j] = F[j] := by
  rw [putS16BE, Vector.getElem_set_ne _ hj h1.symm, Vector.getElem_set_ne _ hj h0.symm]

theorem putS16LE_of_ne {j : Nat} (hj : j < 18) (h0 : j ≠ o.val) (h1 : j ≠ o.val + 1) :
    (putS16LE F o k)[j] = F[j] := by
  rw [putS16LE, Vector.getElem_set_ne _ hj h1.symm, Vector.getElem_set_ne _ hj h0.symm]

/-- Reading back a field gives the 16 bits that were put. -/
theorem getU16BE_putS16BE : getU16BE (putS16BE F o k) o = u16 k := putS16BE_append F o k

theorem getS16BE_putS16BE (h : inS16 k = true) : getS16BE (putS16BE F o k) o = k := by
  rw [getS16BE, getU16BE_putS16BE, sext16_u16 k h]

/-- The two bytes put back are the two bytes that were read; every other byte is untouched. -/
theorem putS16BE_getS16BE : putS16BE F o (getS16BE F o) = F := by
  have hput : (putS16BE F o (getS16BE F o))[o.val] ++ (putS16BE F o (getS16BE F o))[o.val + 1] =
      F[o.val] ++ F[o.val + 1] := by
    rw [putS16BE_append, getS16BE, u16_sext16, getU16BE]
  obtain ⟨hfst, hsnd⟩ := append_eq_append_iff.1 hput
  ext j hj : 1
  by_cases h0 : j = o.val
  · subst h0; exact hfst
  · by_cases h1 : j = o.val + 1
    · subst h1; exact hsnd
    · exact putS16BE_of_ne F o _ hj h0 h1

end

/-- Settles O14, one law of `PutS16BE` and `GetS16BE` each (R146). -/
theorem putThenGetFieldLaws : Obligations.PutThenGetFieldLaws := fun F o =>
  ⟨fun k hlo hhi => getS16BE_putS16BE F o k ((inS16_iff k).2 ⟨hlo, hhi⟩), putS16BE_getS16BE F o⟩

/-- What `PutS16BE` returns, whatever the count. -/
theorem exec_putS16BE (F : Frame) {o : Nat} (h : o < 17) (k : Int) (s : State) :
    ∃ G : Frame, exec (.putS16BE F ⟨o, h⟩ k) s = .next (s.returns (.frame G)) ∧
      G[o] ++ G[o + 1] = u16 (countOperand k) ∧
      ∀ j : Fin 18, j.val ≠ o → j.val ≠ o + 1 → G[j] = F[j] :=
  ⟨_, rfl, putS16BE_append F ⟨o, h⟩ _, fun j => putS16BE_of_ne F ⟨o, h⟩ _ j.isLt⟩

/-- What `PutS16LE` returns, whatever the count. -/
theorem exec_putS16LE (F : Frame) {o : Nat} (h : o < 17) (k : Int) (s : State) :
    ∃ G : Frame, exec (.putS16LE F ⟨o, h⟩ k) s = .next (s.returns (.frame G)) ∧
      G[o + 1] ++ G[o] = u16 (countOperand k) ∧
      ∀ j : Fin 18, j.val ≠ o → j.val ≠ o + 1 → G[j] = F[j] :=
  ⟨_, rfl, putS16LE_append F ⟨o, h⟩ _, fun j => putS16LE_of_ne F ⟨o, h⟩ _ j.isLt⟩

/-- Two bytes that hold the 16 bits of a signed count have its unsigned value. -/
theorem bytes_toNat_of_append_eq {a b : Byte} {k : Int} (hk : inS16 k = true)
    (h : a ++ b = u16 (countOperand k)) :
    (a.toNat * 256 + b.toNat : Int) = if 0 ≤ k then k else k + 65536 := by
  rw [countOperand_inside hk] at h
  rw [← u16_toNat hk, ← h, half_toNat_cast]

/-- Settles O12, one write each: the bytes written, and every other byte as it was. -/
theorem fieldWritesComplete : Obligations.FieldWritesComplete := by
  refine fun F s => ⟨fun o v => ⟨_, rfl, ?_, fun j hj => ?_⟩, fun o h k hlo hhi => ?_⟩
  · exact Vector.getElem_set_self o.isLt
  · exact Vector.getElem_set_ne o.isLt j.isLt fun ho => hj (Fin.ext ho.symm)
  · have hk := (inS16_iff k).2 ⟨hlo, hhi⟩
    obtain ⟨G, hG, hval, hrest⟩ := exec_putS16BE F h k s
    obtain ⟨G', hG', hval', hrest'⟩ := exec_putS16LE F h k s
    exact ⟨⟨G, hG, bytes_toNat_of_append_eq hk hval, hrest⟩,
      ⟨G', hG', bytes_toNat_of_append_eq hk hval', hrest'⟩⟩

/-! ## The byte tests (R148 to R150) -/

theorem byteOperand_of_getElem? {S : List Byte} {i : Nat} {b : Byte} (h : S[i]? = some b) :
    byteOperand S i = b := by rw [byteOperand, h, Option.getD_some]

/-- Settles O13: the low nibble, the two flag bits, and the two bytes compared. -/
theorem byteTestsComplete : Obligations.ByteTestsComplete := by
  refine fun s => ⟨fun b => ⟨_, rfl, lowNibble_toNat b⟩, fun b => ⟨?_, ?_⟩,
    fun S i c0 c1 h => ⟨_, rfl, ?_⟩⟩
  · rw [← testBit_valid]; rfl
  · rw [← testBit_invalid]; rfl
  · rw [byteOperand_of_getElem? (List.getElem?_eq_getElem (by omega : i < S.length)),
      byteOperand_of_getElem? (List.getElem?_eq_getElem (by omega : i + 1 < S.length)),
      Bool.and_eq_true, beq_iff_eq, beq_iff_eq]

/-! ## Outside the domain the value is free (notes/assumptions/13.md) -/

/-- Every operation whose rule has a domain returns a value outside it too. -/
theorem exec_returns_of_not_wf {i : Instr} (h : i.wf = false) (s : State) :
    ∃ r, exec i s = .next (s.returns r) := by
  cases i with
  | putS16BE F o k | putS16LE F o k | eq2 S i c0 c1 | tenthsOf v | unpackTemp k fl | findHeader B c
  | parseStream B nows => exact ⟨_, rfl⟩
  | _ => cases h

/-- A wider count is written as 16 free bits (R146, R147). -/
theorem u16_countOperand_outside {k : Int} (h : inS16 k = false) :
    u16 (countOperand k) = Config.freeCount k := by rw [countOperand_outside h, u16_sext16]

/-- A wider count is scaled as 16 free bits, on a valid channel only (42_temperature.md R184, R186). -/
theorem unpackTemp_outside {k : Int} (h : inS16 k = false) (fl : Byte) :
    unpackTemp (countOperand k) fl =
      if fl.getLsbD 3 = true then flTenth (sext16 (Config.freeCount k)) else Config.quietNaN := by
  rw [unpackTemp, channelValid_eq, countOperand_outside h]

/-- Settles O34, clause by clause. -/
theorem outsideTheDomainTheValueIsFree : Obligations.OutsideTheDomainTheValueIsFree := by
  refine fun s => ⟨fun i h => exec_returns_of_not_wf h s, fun F o h k hk => ?_,
    fun k fl hk => ?_, fun v hv => ?_, fun S i c0 c1 b _ hb hne => ?_, fun B c hc => ?_⟩
  · rw [← u16_countOperand_outside hk]
    exact ⟨exec_putS16BE F h k s, exec_putS16LE F h k s⟩
  · rw [exec, execUnpackTemp, State.answer, unpackTemp_outside hk]
  · rw [exec, execTenthsOf, State.answer, hv, if_neg Bool.false_ne_true]
  · rw [exec, execEq2, State.answer, byteOperand_of_getElem? hb, beq_false_of_ne hne, Bool.false_and]
  · rw [exec, execFindHeader, State.answer, findHeader_short (by omega)]

end Sys2Proof.Machine
end

section
/-! PROOFS. The statements of 41_enum_codec.md: the enum decoders on every byte (R162, R165), the
round trip of the codes (R166), and what the four functions return (R162 to R165). -/

namespace Sys2Proof.Machine

/-! ## The decoders by the value of the low nibble (R162, R165) -/

/-- A nibble with the value of a unit's code decodes to the unit (R160). -/
theorem decUnit_of_mod_eq {b : Byte} {u : TemperatureUnit}
    (h : b.toNat % 16 = (unitCode u).toNat) : decUnit b = .ok u := by
  have hn : lowNibble b = (unitCode u).setWidth 4 := BitVec.eq_of_toNat_eq <| by
    rw [lowNibble_toNat, h, BitVec.toNat_setWidth_of_le (by decide)]
  rw [decUnit_ok_iff, hn, unitOfCode_unitCode]

/-- A nibble with the value of a type's code decodes to the type (R161). -/
theorem decTc_of_mod_eq {b : Byte} {ty : ThermocoupleType}
    (h : b.toNat % 16 = (tcCode ty).toNat) : decTc b = .ok ty := by
  have hn : lowNibble b = (tcCode ty).setWidth 4 := BitVec.eq_of_toNat_eq <| by
    rw [lowNibble_toNat, h, BitVec.toNat_setWidth_of_le (by decide)]
  rw [decTc_ok_iff, hn, tcOfCode_tcCode]

/-- A nibble outside the accepted ones is FormatError(UNIT_ENUM). -/
theorem decUnit_error_of_mod {b : Byte} (h : b.toNat % 16 = 0 ∨ 4 ≤ b.toNat % 16) :
    decUnit b = .error (.format .unitEnum) := by
  cases hu : unitOfCode (lowNibble b) with
  | none => rw [decUnit, hu]
  | some u =>
    have := (decUnit_accepts_iff b).1 ⟨u, (decUnit_ok_iff b u).2 hu⟩
    omega

/-- A nibble outside the accepted ones is FormatError(TC_ENUM). -/
theorem decTc_error_of_mod {b : Byte} (h : b.toNat % 16 = 0 ∨ 8 ≤ b.toNat % 16) :
    decTc b = .error (.format .tcEnum) := by
  cases hty : tcOfCode (lowNibble b) with
  | none => rw [decTc, hty]
  | some ty =>
    have := (decTc_accepts_iff b).1 ⟨ty, (decTc_ok_iff b ty).2 hty⟩
    omega

/-- Settles O6: each accepted nibble is the code of its value, and every other one fails. -/
theorem enumDecodersFollowTheCodes : Obligations.EnumDecodersFollowTheCodes := fun _ =>
  ⟨fun h => ⟨decUnit_of_mod_eq h, decTc_of_mod_eq h⟩,
    fun h => ⟨decUnit_of_mod_eq h, decTc_of_mod_eq h⟩,
    fun h => ⟨decUnit_of_mod_eq h, decTc_of_mod_eq h⟩,
    fun h => decTc_of_mod_eq h, fun h => decTc_of_mod_eq h, fun h => decTc_of_mod_eq h,
    fun h => decTc_of_mod_eq h, decUnit_error_of_mod, decTc_error_of_mod⟩

/-! ## The round trip (R166) -/

/-- `EncUnit` writes the code under the marker bit, which is high nibble 8 (R107, R164). -/
theorem encUnit_eq_unitByteOf (u : TemperatureUnit) : encUnit u = unitByteOf 8 u := by
  cases u <;> rfl

/-- `EncTc` writes the code under a zero high nibble (R106, R163). -/
theorem encTc_eq_tcByteOf (ty : ThermocoupleType) : encTc ty = tcByteOf 0 ty := by
  cases ty <;> rfl

@[simp] theorem decUnit_encUnit (u : TemperatureUnit) : decUnit (encUnit u) = .ok u := by
  rw [encUnit_eq_unitByteOf, unitByteOf, decUnit_append]

@[simp] theorem decTc_encTc (ty : ThermocoupleType) : decTc (encTc ty) = .ok ty := by
  rw [encTc_eq_tcByteOf, tcByteOf, decTc_append]

theorem lowNibble_eq_of_mod_eq {b c : Byte} (h : b.toNat % 16 = c.toNat % 16) :
    lowNibble b = lowNibble c :=
  BitVec.eq_of_toNat_eq (by rw [lowNibble_toNat, lowNibble_toNat, h])

/-- Settles O7: the high nibble is lost, since the decoders read the low nibble alone; on the 16
nibbles they are counted out. -/
theorem enumCodesRoundTrip : Obligations.EnumCodesRoundTrip := by
  refine ⟨decUnit_encUnit, decTc_encTc, ⟨.kelvin, decUnit_of_mod_eq rfl, rfl⟩, fun b c h => ?_,
    by decide, by decide⟩
  rw [decUnit, decTc, lowNibble_eq_of_mod_eq h]
  exact ⟨rfl, rfl⟩

/-! ## What the four functions return (R162 to R165) -/

/-- The value or the error of a check, whichever it gives, is what is returned (00_scope.md R15). -/
theorem resultOf_cases {α : Type} (f : α → Result) (x : Except Err α) :
    (∀ v, x = .ok v → resultOf f x = f v) ∧ ∀ e, x = .error e → resultOf f x = .error e :=
  ⟨fun _ h => h ▸ rfl, fun _ h => h ▸ rfl⟩

theorem exec_decUnit (b : Byte) (s : State) :
    exec (.decUnit b) s = .next (s.returns (resultOf .unit (decUnit b))) := rfl

theorem exec_decTc (b : Byte) (s : State) :
    exec (.decTc b) s = .next (s.returns (resultOf .tc (decTc b))) := rfl

theorem exec_encTc (ty : ThermocoupleType) (s : State) :
    exec (.encTc ty) s = .next (s.returns (.u8 (encTc ty))) := rfl

theorem exec_encUnit (u : TemperatureUnit) (s : State) :
    exec (.encUnit u) s = .next (s.returns (.u8 (encUnit u))) := rfl

/-- Settles O10: the decoders return what they decode, and the encoders the byte of each value. -/
theorem enumFunctionsComplete : Obligations.EnumFunctionsComplete := fun s =>
  ⟨fun b => ⟨_, exec_decUnit b s, resultOf_cases .unit (decUnit b)⟩,
    fun b => ⟨_, exec_decTc b s, resultOf_cases .tc (decTc b)⟩,
    exec_encTc .k s, exec_encTc .j s, exec_encTc .t s, exec_encTc .e s, exec_encTc .r s,
    exec_encTc .s s, exec_encTc .n s,
    exec_encUnit .celsius s, exec_encUnit .fahrenheit s, exec_encUnit .kelvin s⟩

end Sys2Proof.Machine
end

section
/-! PROOFS. The statements of 42_temperature.md: `TenthsOf` (R180), `PackTemp` and `UnpackTemp` (R181
to R187), the validity of a flag byte (R186, R187), and the laws of the round trip (R188). -/

namespace Sys2Proof.Machine

/-! ## A multiple of the unit that is near enough is the only one -/

/-- When one multiple of `d` lies nearer to `x` than half of `d`, no other lies within that half. -/
theorem eq_of_near_multiple {q m d x : Int} (hq : 2 * |q * d - x| < d) (hm : 2 * |m * d - x| ≤ d) :
    m = q := by
  have htri : |(m - q) * d| ≤ |m * d - x| + |q * d - x| := by
    rw [sub_mul, abs_sub_comm (q * d)]
    exact abs_sub_le _ _ _
  have hlt : |(m - q) * d| < d := by linarith
  have hzero : (m - q) * d = 0 := Int.eq_zero_of_abs_lt_dvd (Int.dvd_mul_left _ _) hlt
  exact sub_eq_zero.1 ((mul_eq_zero.1 hzero).resolve_right ((abs_nonneg _).trans_lt hlt).ne')

/-- `roundEven` recovers a whole number from anything nearer to it than one half. -/
theorem roundEven_eq_of_near {p d n : Nat} (hd : 0 < d) (h : 2 * |(n * d : Int) - p| < d) :
    roundEven p d = n := by
  exact_mod_cast eq_of_near_multiple h (roundEven_error p d hd).1

/-! ## How far `fl` is off below a power of two -/

/-- A value below 2^53 units of the place `s` needs no higher last place. -/
theorem ulpShift_le {n d s : Nat} (h : n * 2 ^ 1074 / d < 2 ^ (s + 53)) : ulpShift n d ≤ s := by
  have hlog : Nat.log2 (n * 2 ^ 1074 / d) < s + 53 := by
    by_cases h0 : n * 2 ^ 1074 / d = 0
    · rw [h0, Nat.log2_zero]
      omega
    · exact (Nat.log2_lt h0).2 h
  unfold ulpShift
  omega

/-- A value below 2^16 is rounded with an error of at most 2^-38. -/
theorem unitsOff_roundMag_le {n d : Nat} (hd : 0 < d) (h : n < 2 ^ 16 * d) :
    2 ^ 38 * unitsOff n d (magUnits (roundMag n d)) ≤ d * 2 ^ 1074 := by
  have hquot : n * 2 ^ 1074 / d < 2 ^ (1037 + 53) := by
    rw [Nat.div_lt_iff_lt_mul hd, show 1037 + 53 = 16 + 1074 from rfl, pow_add 2 16, mul_right_comm]
    exact Nat.mul_lt_mul_of_pos_right h (pow_pos two_pos 1074)
  have herr : 2 * unitsOff n d (magUnits (roundMag n d)) ≤ d * 2 ^ ulpShift n d := by
    rw [magUnits_roundMag, unitsOff_mul_two_pow]
    exact_mod_cast (roundEven_error _ _ (Nat.mul_pos hd (Nat.two_pow_pos _))).1
  have hplace : (d * 2 ^ ulpShift n d : Int) ≤ d * 2 ^ 1037 :=
    mul_le_mul_of_nonneg_left (pow_le_pow_right₀ one_le_two (ulpShift_le hquot)) d.cast_nonneg
  have hpow : (2 : Int) ^ 1074 = 2 ^ 37 * 2 ^ 1037 := pow_add 2 37 1037
  rw [hpow, mul_left_comm]
  omega

/-- A magnitude below 2^1024, which is `2^2098` units of 2^-1074, is finite. -/
theorem lt_infMag_of_magUnits_lt {b : Nat} (h : magUnits b < 2 ^ 52 * 2 ^ 2046) : b < infMag := by
  rw [← magUnits_shift_add (s := 2046) (m := 2 ^ 52) (by norm_num) (.inr le_rfl)] at h
  exact magUnits_strictMono.lt_iff_lt.1 h

/-! ## The pattern of a sign and a magnitude -/

section
variable {b : Nat} (neg : Bool) (hb : b < infMag)
include hb

theorem toNat_mkF64 : (mkF64 neg b).toNat = b + if neg then 2 ^ 63 else 0 := by
  rw [mkF64, BitVec.toNat_ofNat, Nat.mod_eq_of_lt]
  unfold infMag at hb
  cases neg <;> simp only [Bool.false_eq_true, ↓reduceIte] <;> omega

theorem signBit_mkF64 : signBit (mkF64 neg b) = neg := by
  rw [signBit, ← BitVec.msb_eq_getLsbD_last, BitVec.msb_eq_decide, toNat_mkF64 neg hb]
  unfold infMag at hb
  cases neg
  · exact decide_eq_false (by simp only [Bool.false_eq_true, ↓reduceIte]; omega)
  · exact decide_eq_true (Nat.le_add_left _ _)

theorem magBits_mkF64 : magBits (mkF64 neg b) = b := by
  rw [magBits, BitVec.extractLsb'_toNat, toNat_mkF64 neg hb, Nat.shiftRight_zero]
  unfold infMag at hb
  cases neg <;> simp only [Bool.false_eq_true, ↓reduceIte] <;> omega

theorem finiteTemp_mkF64 : finiteTemp (mkF64 neg b) = true := by
  rw [finiteTemp, bne_iff_ne, Ne, ← BitVec.toNat_inj, BitVec.extractLsb'_toNat, toNat_mkF64 neg hb,
    Nat.shiftRight_eq_div_pow]
  unfold infMag at hb
  cases neg <;> simp only [Bool.false_eq_true, ↓reduceIte, BitVec.reduceToNat] <;> omega

end

/-! ## The two rounding errors of a tenth there and back (R180, R185) -/

/-- The magnitude of `fl(n / 10)`, in units of 2^-1074. -/
def tenthUnits (n : Nat) : Nat := magUnits (roundMag n 10)

/-- Ten times the rounded tenth is within 1/8 of the count. -/
theorem tenthUnits_error {n : Nat} (hn : n ≤ 32768) :
    8 * |(tenthUnits n * 10 : Int) - n * 2 ^ 1074| ≤ 2 ^ 1074 := by
  have herr := unitsOff_roundMag_le (n := n) (d := 10) (by decide) (by omega)
  rw [← unitsOff_eq, ← tenthUnits, Nat.cast_ofNat] at herr
  omega

theorem tenthUnits_mul_ten_lt {n : Nat} (hn : n ≤ 32768) :
    tenthUnits n * 10 < 2 ^ 16 * 2 ^ 1074 := by
  have herr := tenthUnits_error hn
  have hle := le_abs_self (tenthUnits n * 10 - n * 2 ^ 1074 : Int)
  zify
  omega

theorem roundMag_tenth_lt_infMag {n : Nat} (hn : n ≤ 32768) : roundMag n 10 < infMag := by
  have hlt := tenthUnits_mul_ten_lt hn
  refine lt_infMag_of_magUnits_lt ?_
  rw [← tenthUnits]
  omega

/-- The rounded product by ten is within 1/8 of the exact one, for products below 2^16. -/
theorem magUnits_timesTen_error {m : Nat} (hm : m < 2 ^ 16 * 2 ^ 1074) :
    8 * |(magUnits (roundMag m (2 ^ 1074)) : Int) - m| ≤ 2 ^ 1074 := by
  have hunit : (0 : Int) < 2 ^ 1074 := pow_pos two_pos 1074
  have hpos : (0 : Nat) < 2 ^ 1074 := pow_pos two_pos 1074
  have herr := unitsOff_roundMag_le hpos hm
  rw [unitsOff, Nat.cast_mul, Nat.cast_pow, Nat.cast_ofNat, ← sub_mul, abs_mul, abs_of_pos hunit,
    ← mul_assoc] at herr
  have hle := le_of_mul_le_mul_right herr hunit
  omega

theorem roundMag_timesTen_lt_infMag {m : Nat} (hm : m < 2 ^ 16 * 2 ^ 1074) :
    roundMag m (2 ^ 1074) < infMag := by
  have herr := magUnits_timesTen_error hm
  have hle := le_abs_self ((magUnits (roundMag m (2 ^ 1074)) : Int) - m)
  refine lt_infMag_of_magUnits_lt ?_
  omega

/-- A count survives the product by ten of its rounded tenth: the two rounding errors together stay
below one half. -/
theorem roundEven_timesTen {n : Nat} (hn : n ≤ 32768) :
    roundEven (magUnits (roundMag (tenthUnits n * 10) (2 ^ 1074))) (2 ^ 1074) = n := by
  have htenth := tenthUnits_error hn
  have htimes := magUnits_timesTen_error (tenthUnits_mul_ten_lt hn)
  have htri := abs_sub_le (magUnits (roundMag (tenthUnits n * 10) (2 ^ 1074)) : Int)
    (tenthUnits n * 10) (n * 2 ^ 1074)
  refine roundEven_eq_of_near (pow_pos two_pos 1074) ?_
  rw [abs_sub_comm, Nat.cast_pow, Nat.cast_ofNat]
  rw [Nat.cast_mul, Nat.cast_ofNat] at htimes
  omega

/-! ## `TenthsOf` (R180) -/

theorem exec_tenthsOf {v : F64} (hv : finiteTemp v = true) (s : State) :
    exec (.tenthsOf v) s = .next (s.returns (.tenths (tenthsOf v))) := by
  rw [exec, execTenthsOf, State.answer, if_pos hv]

theorem tenthsOf_eq_none_iff (v : F64) : tenthsOf v = none ↔ infMag ≤ timesTenMag v := by
  dsimp only [tenthsOf]
  split
  · exact iff_of_true rfl ‹_›
  · exact iff_of_false (Option.some_ne_none _) ‹_›

/-- A count of tenths is the rounded product with the sign of the value. -/
theorem tenthsOf_eq_some {v : F64} {n : Int} (h : tenthsOf v = some n) :
    n = if signBit v then -(roundEven (magUnits (timesTenMag v)) (2 ^ 1074) : Int)
      else roundEven (magUnits (timesTenMag v)) (2 ^ 1074) := by
  dsimp only [tenthsOf] at h
  split at h
  · cases h
  · exact (Option.some.inj h).symm

/-- Settles O16: the magnitude of the count is what `roundEven` gives, and its sign the sign bit. -/
theorem tenthsOfCompletes : Obligations.TenthsOfCompletes := by
  refine fun v s hv => ⟨_, exec_tenthsOf hv s, tenthsOf_eq_none_iff v, fun n hn => ?_⟩
  have hsign := tenthsOf_eq_some hn
  obtain ⟨herr, heven⟩ :=
    roundEven_error (magUnits (timesTenMag v)) (2 ^ 1074) (pow_pos two_pos 1074)
  have habs : n.natAbs = roundEven (magUnits (timesTenMag v)) (2 ^ 1074) := by
    split at hsign <;> omega
  rw [← habs, Nat.cast_pow, Nat.cast_ofNat] at herr heven
  refine ⟨fun hneg => ?_, fun hpos => ?_, herr, fun htie => ?_⟩
  · rw [if_pos hneg] at hsign
    omega
  · rw [if_neg (Bool.eq_false_iff.1 hpos)] at hsign
    omega
  · have := heven htie
    omega

/-! ## A tenth there and back (R188 L1) -/

section
variable {q : Int} (hq : inS16 q = true)
include hq

theorem natAbs_le_of_inS16 : q.natAbs ≤ 32768 := by
  obtain ⟨hlo, hhi⟩ := (inS16_iff q).1 hq
  omega

theorem signBit_flTenth : signBit (flTenth q) = decide (q < 0) :=
  signBit_mkF64 _ (roundMag_tenth_lt_infMag (natAbs_le_of_inS16 hq))

theorem finiteTemp_flTenth : finiteTemp (flTenth q) = true :=
  finiteTemp_mkF64 _ (roundMag_tenth_lt_infMag (natAbs_le_of_inS16 hq))

theorem magUnits_flTenth : magUnits (magBits (flTenth q)) = tenthUnits q.natAbs :=
  congrArg magUnits (magBits_mkF64 _ (roundMag_tenth_lt_infMag (natAbs_le_of_inS16 hq)))

theorem timesTenMag_flTenth :
    timesTenMag (flTenth q) = roundMag (tenthUnits q.natAbs * 10) (2 ^ 1074) := by
  rw [timesTenMag, magUnits_flTenth hq]

theorem timesTenMag_flTenth_lt_infMag : timesTenMag (flTenth q) < infMag := by
  rw [timesTenMag_flTenth hq]
  exact roundMag_timesTen_lt_infMag (tenthUnits_mul_ten_lt (natAbs_le_of_inS16 hq))

/-- R188 L1 for `TenthsOf`. -/
theorem tenthsOf_flTenth : tenthsOf (flTenth q) = some q := by
  cases h : tenthsOf (flTenth q) with
  | none => exact absurd ((tenthsOf_eq_none_iff _).1 h) (timesTenMag_flTenth_lt_infMag hq).not_ge
  | some n =>
    have hn := tenthsOf_eq_some h
    rw [timesTenMag_flTenth hq, roundEven_timesTen (natAbs_le_of_inS16 hq), signBit_flTenth hq] at hn
    simp only [decide_eq_true_eq] at hn
    have hnq : n = q := by split at hn <;> omega
    rw [hnq]

/-- Ten times the rounded tenth, with its sign, is nearer to the count than one half. -/
theorem flTenth_near :
    2 * |(q * 2 ^ 1074 : Int) - (if signBit (flTenth q) = true then -1 else 1) *
      (magUnits (magBits (flTenth q)) * 10 : Int)| < 2 ^ 1074 := by
  have herr := tenthUnits_error (natAbs_le_of_inS16 hq)
  have hunit : (0 : Int) < 2 ^ 1074 := pow_pos two_pos 1074
  rw [signBit_flTenth hq, magUnits_flTenth hq]
  generalize (2 : Int) ^ 1074 = u at *
  by_cases hneg : q < 0
  · have habs : (q.natAbs : Int) = -q := by omega
    have hx : q * u - -1 * (tenthUnits q.natAbs * 10) = tenthUnits q.natAbs * 10 - -q * u := by ring
    rw [if_pos (decide_eq_true hneg), hx, ← habs]
    omega
  · have habs : (q.natAbs : Int) = q := by omega
    rw [if_neg (by simpa using hneg), one_mul, abs_sub_comm, ← habs, Int.natAbs_natCast]
    omega

end

/-! ## `PackTemp` and `UnpackTemp` (R181 to R187) -/

theorem packTemp_of_not_finite {t : F64} (h : finiteTemp t = false) :
    packTemp t = .ok (-32768, 0x40) := by
  rw [packTemp, h]
  rfl

theorem packTemp_of_inS16 {t : F64} {k : Int} (h : finiteTemp t = true) (hk : tenthsOf t = some k)
    (hin : inS16 k = true) : packTemp t = .ok (k, 0x08) := by
  rw [packTemp, if_pos h, hk]
  exact if_pos hin

theorem packTemp_error {t : F64} (h : finiteTemp t = true)
    (hk : ∀ k, tenthsOf t = some k → inS16 k = false) : packTemp t = .error (.range .temp) := by
  rw [packTemp, if_pos h]
  cases ht : tenthsOf t with
  | none => rfl
  | some k => exact if_neg (Bool.eq_false_iff.1 (hk k ht))

theorem unpackTemp_eq (k : Int) (fl : Byte) :
    unpackTemp k fl = if fl.getLsbD 3 = true then flTenth k else 0x7FF8000000000000 := by
  rw [unpackTemp, channelValid_eq]

theorem exec_packTemp (t : F64) (s : State) : exec (.packTemp t) s =
    .next (s.returns (resultOf (fun p => .packed p.1 p.2) (packTemp t))) := rfl

theorem exec_unpackTemp {k : Int} (hk : inS16 k = true) (fl : Byte) (s : State) :
    exec (.unpackTemp k fl) s = .next (s.returns (.temp (unpackTemp k fl))) := by
  rw [exec, execUnpackTemp, State.answer, countOperand_inside hk]

/-- Settles O17, one case of R181 each, and the value of the flag byte's bit 3. -/
theorem packAndUnpackTempComplete : Obligations.PackAndUnpackTempComplete := by
  refine fun s => ⟨fun t h => ?_, fun t k h hk hlo hhi => ?_, fun t h hout => ?_,
    fun k fl hlo hhi => ?_⟩
  · rw [exec_packTemp, packTemp_of_not_finite h]
    rfl
  · rw [exec_packTemp, packTemp_of_inS16 h hk ((inS16_iff k).2 ⟨hlo, hhi⟩)]
    rfl
  · have hwide : ∀ k, tenthsOf t = some k → inS16 k = false := fun k hk => by
      rw [← Bool.not_eq_true, inS16_iff]
      rcases hout with hnone | ⟨k', hk', hrange⟩
      · exact nomatch hnone.symm.trans hk
      · obtain rfl := Option.some.inj (hk'.symm.trans hk)
        omega
    rw [exec_packTemp, packTemp_error h hwide]
    rfl
  · rw [exec_unpackTemp ((inS16_iff k).2 ⟨hlo, hhi⟩), unpackTemp_eq]

/-! ## The laws of the round trip (R188) -/

/-- R188 L2: what comes back of an accepted value. -/
theorem unpackTemp_of_packTemp {t : F64} {k : Int} {f : Byte} (h : packTemp t = .ok (k, f)) :
    (finiteTemp t = false → unpackTemp k f = 0x7FF8000000000000) ∧
      (finiteTemp t = true → ∃ n, tenthsOf t = some n ∧ unpackTemp k f = flTenth n) := by
  rcases packTemp_ok t k f h with ⟨hfin, rfl, rfl⟩ | ⟨hfin, hk, _, rfl⟩
  · exact ⟨fun _ => rfl, fun h => absurd (hfin.symm.trans h) Bool.false_ne_true⟩
  · exact ⟨fun h => absurd (h.symm.trans hfin) Bool.false_ne_true, fun _ => ⟨k, hk, rfl⟩⟩

/-- Settles O18: L1 by the two rounding errors, which together stay below one half, and L2 and L3 by
the cases of `PackTemp`. -/
theorem temperatureRoundTripLaws : Obligations.TemperatureRoundTripLaws := by
  refine ⟨fun q hlo hhi => ?_, fun t k f h => unpackTemp_of_packTemp h,
    packTemp_of_not_finite (by decide), rfl⟩
  have hq := (inS16_iff q).2 ⟨hlo, hhi⟩
  exact ⟨tenthsOf_flTenth hq, packTemp_of_inS16 (finiteTemp_flTenth hq) (tenthsOf_flTenth hq) hq,
    fun m hm => eq_of_near_multiple (flTenth_near hq) hm⟩

/-! ## The rows of the flag byte (R186, R187) -/

theorem channelValid_flagValidByte (high : BitVec 4) (low : BitVec 3) :
    channelValid (flagValidByte high low) = true := by
  rw [channelValid_eq]
  simp only [flagValidByte, BitVec.getLsbD_append]
  rfl

theorem channelValid_flagInvalidByte (b7 : BitVec 1) (mid : BitVec 2) (low : BitVec 3) :
    channelValid (flagInvalidByte b7 mid low) = false := by
  rw [channelValid_eq]
  simp only [flagInvalidByte, BitVec.getLsbD_append]
  rfl

/-- Settles O9: each row returns bit 3 of its byte. -/
theorem flagRowsTellTheValidity : Obligations.FlagRowsTellTheValidity := by
  refine fun h l b7 m s => ⟨?_, ?_⟩
  · rw [exec, execFlagValid, State.answer, channelValid_flagValidByte]
  · rw [exec, execFlagInvalid, State.answer, channelValid_flagInvalidByte]

end Sys2Proof.Machine
end

section
/-! PROOFS. The meter time, both ways, and the rows of its four functions
(43_meter_time.md R200 to R205). -/

namespace Sys2Proof.Machine

/-! ## `SplitTime` and `PackTime` as the inverse of `JoinTime` (R201, R202) -/

/-- The parts of a time make up the time, and only the hours are unbounded (R201). -/
theorem splitTime_spec (n : Nat) :
    n = (splitTime n).1 * 3600 + (splitTime n).2.1 * 60 + (splitTime n).2.2 ∧
      (splitTime n).2.1 ≤ 59 ∧ (splitTime n).2.2 ≤ 59 := by
  simp only [splitTime]
  omega

/-- `PackTime` answers the one split of its time into bytes with minutes and seconds below 60
(R202). -/
theorem packTime_ok_iff (d : Duration) (hh mm ss : Byte) : packTime d = .ok (hh, mm, ss) ↔
    d.sec.toNat = joinTime hh mm ss ∧ mm.toNat ≤ 59 ∧ ss.toNat ≤ 59 := by
  constructor
  · intro h
    obtain ⟨_, hhh, hmm, hss⟩ := packTime_ok d hh mm ss h
    rw [joinTime, hhh, hmm, hss]
    omega
  · exact fun ⟨hjoin, hm, hs⟩ => packTime_of_joined hjoin hm hs

/-- From 256 hours on the hours fit no byte (R202). -/
theorem packTime_eq_error {d : Duration} (h : 921600 ≤ d.sec.toNat) :
    packTime d = .error (.range .hours) :=
  if_pos (show 255 < d.sec.toNat / 3600 by omega)

/-- Below 256 hours every time packs (R202). -/
theorem exists_packTime_eq_ok {d : Duration} (h : d.sec.toNat < 921600) :
    ∃ hh mm ss, packTime d = .ok (hh, mm, ss) :=
  ⟨_, _, _, if_neg (show ¬ 255 < d.sec.toNat / 3600 by omega)⟩

/-! ## The laws of the meter time (R205) -/

/-- R205 L4: bytes with minutes or seconds above 59 do not come back. -/
theorem packTime_joinDuration_ne {h m c : Byte} (hout : 59 < m.toNat ∨ 59 < c.toNat) :
    packTime (joinDuration h m c) ≠ .ok (h, m, c) := by
  rw [Ne, packTime_ok_iff]
  omega

/-- Settles O20: L1 to L3 are the two directions of `packTime_ok_iff`, and L4 the bounds it puts on
minutes and seconds. -/
theorem meterTimeLaws : Obligations.MeterTimeLaws := by
  refine ⟨fun h m c hm hc => ?_, fun d hd => ?_, fun d h m c hp => ?_, fun h m c hout => ?_⟩
  · exact (packTime_ok_iff _ h m c).2 ⟨joinDuration_sec h m c, hm, hc⟩
  · obtain ⟨h, m, c, hp⟩ := exists_packTime_eq_ok (Nat.lt_succ_of_le hd)
    exact ⟨h, m, c, hp, ((packTime_ok_iff d h m c).1 hp).1.symm⟩
  · exact ⟨((packTime_ok_iff d h m c).1 hp).1.symm, rfl⟩
  · cases hp : packTime (joinDuration h m c) with
    | ok t => exact .inl ⟨t.1, t.2.1, t.2.2, rfl, fun ht =>
        packTime_joinDuration_ne hout (hp.trans (congrArg Except.ok ht))⟩
    | error e => exact .inr (congrArg Except.error (packTime_error _ e hp))

/-! ## The rows of the four functions (R200 to R203) -/

theorem exec_packTime (d : Duration) (s : State) : exec (.packTime d) s =
    .next (s.returns (resultOf (fun t => .timeBytes t.1 t.2.1 t.2.2) (packTime d))) := rfl

/-- Settles O19, one function each, `PackTime` below 256 hours and from there on. -/
theorem timeFunctionsComplete : Obligations.TimeFunctionsComplete := by
  refine fun s => ⟨fun d => rfl, fun n => ⟨_, _, _, rfl, splitTime_spec n⟩, fun d hd => ?_,
    fun d hd => ?_, fun hh mm ss => rfl⟩
  · obtain ⟨hh, mm, ss, hp⟩ := exists_packTime_eq_ok hd
    refine ⟨hh, mm, ss, ?_, (packTime_ok_iff d hh mm ss).1 hp⟩
    rw [exec_packTime, hp]
    rfl
  · rw [exec_packTime, packTime_eq_error hd]
    rfl

end Sys2Proof.Machine
end

section
/-! PROOFS. The statements of 44_message_codec.md: the functions `Encode` and `Decode` with their
errors in order (R215 to R222), the two round trips (R224, R225), a failed command (R226, R227) and
what an accepted frame does (R219, R254). -/

namespace Sys2Proof.Machine

/-! ## The checks of `Encode` (R217, R218) -/

theorem exec_fnEncode (x : Observation) (s : State) :
    exec (.fnEncode x) s = .next (s.returns (resultOf .frame (encodeMessage x))) := rfl

/-- Without two channels `Encode` looks at nothing else (R216). -/
theorem encodeMessage_shape {x : Observation} (h : x.channelTemp.length ≠ 2) :
    encodeMessage x = .error .shape := by
  unfold encodeMessage
  split
  · rename_i a b hx
    exact absurd (congrArg List.length hx) h
  · rfl

/-- On two channels `Encode` is the chain of its conversions, the first that fails ending it
(R217). -/
theorem encodeMessage_of_pair {x : Observation} {a b : F64} (hx : x.channelTemp = [a, b]) :
    encodeMessage x = do
      let p ← (packTemp a).mapError fun _ => .range .temp1
      let q ← (packTemp b).mapError fun _ => .range .temp2
      let tb ← encTcReg x.tc
      let ub ← encUnitReg x.units
      let t ← packTime x.meterTime
      return messageFrame p.1 p.2 q.1 q.2 tb ub t.1 t.2.1 t.2.2 := by
  rw [encodeMessage, hx]
  dsimp only
  cases packTemp a with
  | error e => rfl
  | ok p =>
    cases packTemp b with
    | error e => rfl
    | ok q =>
      cases encTcReg x.tc with
      | error e => rfl
      | ok tb =>
        cases encUnitReg x.units with
        | error e => rfl
        | ok ub => cases packTime x.meterTime <;> rfl

/-- Settles O22: each condition decides one conversion of the chain, those before it having
passed. -/
theorem encodeReportsTheFirstError : Obligations.EncodeReportsTheFirstError := by
  refine fun x => ⟨encodeMessage_shape, fun a b hx => ?_⟩
  rw [encodeMessage_of_pair hx]
  refine ⟨fun ha => by rw [ha]; rfl, fun ⟨p, ha⟩ => ?_⟩
  rw [ha]
  refine ⟨fun hb => by rw [hb]; rfl, fun ⟨q, hb⟩ => ?_⟩
  rw [hb]
  refine ⟨fun htc => by rw [htc]; rfl, fun htc => ?_⟩
  rw [encTcReg_of_ne_zero htc]
  refine ⟨fun hu => by rw [hu]; rfl, fun hu => ?_⟩
  rw [encUnitReg_of_ne_zero hu]
  refine ⟨fun ht => by rw [packTime_eq_error ht]; rfl, fun ht => ?_⟩
  obtain ⟨hh, mm, ss, hp⟩ := exists_packTime_eq_ok ht
  rw [hp]
  exact ⟨_, rfl⟩

/-- A check either gives a value or fails (00_scope.md R15). -/
theorem exists_ok_or_exists_error {α : Type} (x : Except Err α) :
    (∃ v, x = .ok v) ∨ ∃ e, x = .error e := by
  cases x with
  | ok v => exact .inl ⟨v, rfl⟩
  | error e => exact .inr ⟨e, rfl⟩

/-- Settles O21: the frame of the parts, and in every case what `Encode` answers. -/
theorem encodeFunctionCompletes : Obligations.EncodeFunctionCompletes := by
  intro x s
  rw [exec_fnEncode]
  obtain ⟨hok, herror⟩ := resultOf_cases .frame (encodeMessage x)
  refine ⟨fun a b k1 k2 f1 f2 hh mm ss hx ha hb htc hu ht hm hs => ?_,
    fun F hF => by rw [hok F hF], fun e he => by rw [herror e he],
    exists_ok_or_exists_error (encodeMessage x)⟩
  rw [hok _ (encodeMessage_of_parts hx ha hb (encTcReg_of_ne_zero htc) (encUnitReg_of_ne_zero hu)
    (packTime_of_joined ht hm hs))]
  rfl

/-! ## The checks of `Decode` (R219 to R221) -/

theorem eq2_toList_iff (F : Frame) {i : Nat} (hi : i + 1 < 18) (c0 c1 : Byte) :
    eq2 F.toList i c0 c1 = true ↔ F[i] = c0 ∧ F[i + 1] = c1 := by
  simp [eq2_iff, hi, Nat.lt_of_succ_lt hi]

theorem decodeFrame_of_length_ne {F : List Byte} (h : F.length ≠ 18) :
    decodeFrame F = .error .length := by rw [decodeFrame, dif_neg h]

/-- The checks of `Decode` on 18 bytes, in their order (R220). -/
theorem decodeFrame_toList_eq (F : Frame) : decodeFrame F.toList =
    if F[0] = 0x65 ∧ F[1] = 0x14 then
      if F[16] = 0x0D ∧ F[17] = 0x0A then do
        let ty ← decTc F[9]
        let u ← decUnit F[10]
        return frameFields F ty u
      else .error (.format .trailer)
    else .error (.format .header) := by
  have hF : ∀ h, frameOf F.toList h = F := fun h => Vector.toArray_inj.1 rfl
  have h9 : getU8 F 9 = F[9] := rfl
  have h10 : getU8 F 10 = F[10] := rfl
  have hhdr := eq2_toList_iff F (i := 0) (by decide)
  have htrl := eq2_toList_iff F (i := 16) (by decide)
  simp only [decodeFrame, F.length_toList, dite_true, hF, h9, h10, hhdr, htrl]
  refine if_congr Iff.rfl (if_congr Iff.rfl ?_ rfl) rfl
  cases decTc F[9] with
  | error e => rfl
  | ok ty => cases decUnit F[10] <;> rfl

/-- Settles O24: each condition decides one check, those before it having passed. -/
theorem decodeFailsInExactlyTheseCases : Obligations.DecodeFailsInExactlyTheseCases := by
  refine ⟨fun F now h => (decodeMessage_error_iff F now _).2 (decodeFrame_of_length_ne h),
    fun F now => ?_⟩
  simp only [decodeMessage_error_iff]
  refine ⟨fun h => ?_, fun hhdr => ⟨fun h => ?_, fun htrl => ⟨fun h => ?_, fun htc => ⟨fun h => ?_,
    fun hu => ?_⟩⟩⟩⟩
  · rw [decodeFrame_toList_eq, if_neg (not_and_or.2 h)]
  · rw [decodeFrame_toList_eq, if_pos hhdr, if_neg (not_and_or.2 h)]
  · rw [decodeFrame_toList_eq, if_pos hhdr, if_pos htrl, decTc_error_of_mod h]
    rfl
  · obtain ⟨ty, hty⟩ := (decTc_accepts_iff F[9]).2 htc
    rw [decodeFrame_toList_eq, if_pos hhdr, if_pos htrl, hty, decUnit_error_of_mod h]
    rfl
  · exact (decodeMessage_accepts_iff F now).2 ⟨⟨hhdr.1, hhdr.2, htrl⟩,
      (decTc_accepts_iff F[9]).2 htc, (decUnit_accepts_iff F[10]).2 hu⟩

theorem exec_fnDecode (F : List Byte) (now : Time) (s : State) : exec (.fnDecode F now) s =
    .next (s.returns (resultOf .observation (decodeMessage F now))) := rfl

/-- Settles O23: the record of an accepted frame's fields, and in every case what `Decode`
answers. -/
theorem decodeFunctionCompletes : Obligations.DecodeFunctionCompletes := by
  refine fun now s => ⟨fun F ty u h0 h1 h16 h17 htc hu => ?_, fun F => ?_⟩
  · rw [← channelValid_eq, ← channelValid_eq, exec_fnDecode, (decodeMessage_ok_iff _ _ _).2
      ⟨_, decodeFrame_toList h0 h1 h16 h17 htc hu, rfl⟩]
    rfl
  · rw [exec_fnDecode]
    obtain ⟨hok, herror⟩ := resultOf_cases .observation (decodeMessage F now)
    exact ⟨fun r hr => by rw [hok r hr], fun e he => by rw [herror e he],
      exists_ok_or_exists_error (decodeMessage F now)⟩

/-! ## The fields of the frames `Encode` writes (R217) -/

/-- The fields of a frame of `Encode`: padding zero, high nibbles 0 and 8 (30_encoding.md R119). -/
def messageFields (k1 : Int) (f1 : Byte) (k2 : Int) (f2 : Byte) (ty : ThermocoupleType)
    (u : TemperatureUnit) (hh mm ss : Byte) : FrameFields :=
  ⟨0, u16 k1, u16 k2, 0, ty, 8, u, f1, f2, hh, mm, ss⟩

theorem messageFrame_eq_encodeFrame (k1 : Int) (f1 : Byte) (k2 : Int) (f2 : Byte)
    (ty : ThermocoupleType) (u : TemperatureUnit) (hh mm ss : Byte) :
    messageFrame k1 f1 k2 f2 (encTc ty) (encUnit u) hh mm ss =
      encodeFrame (messageFields k1 f1 k2 f2 ty u hh mm ss) := by
  rw [encTc_eq_tcByteOf, encUnit_eq_unitByteOf]
  simp [messageFrame, encodeFrame, messageFields, tcByteOf, unitByteOf]

@[simp] theorem encTcReg_tcCode (ty : ThermocoupleType) : encTcReg (tcCode ty) = .ok (encTc ty) := by
  cases ty <;> rfl

@[simp] theorem encUnitReg_unitCode (u : TemperatureUnit) :
    encUnitReg (unitCode u) = .ok (encUnit u) := by cases u <;> rfl

/-- With two channels that pack and codes of a type and a unit, only the time can fail (R218). -/
theorem encodeMessage_of_packed {x : Observation} {a b : F64} {p q : Int × Byte}
    {ty : ThermocoupleType} {u : TemperatureUnit} (hx : x.channelTemp = [a, b])
    (ha : packTemp a = .ok p) (hb : packTemp b = .ok q) (htc : x.tc = tcCode ty)
    (hu : x.units = unitCode u) :
    encodeMessage x = (packTime x.meterTime).map fun t =>
      encodeFrame (messageFields p.1 p.2 q.1 q.2 ty u t.1 t.2.1 t.2.2) := by
  rw [encodeMessage_of_pair hx, ha, hb, htc, hu, encTcReg_tcCode, encUnitReg_unitCode]
  cases packTime x.meterTime with
  | error e => rfl
  | ok t => exact congrArg Except.ok (messageFrame_eq_encodeFrame ..)

/-- A register code that has a byte is the code of the type that has that byte
(41_enum_codec.md R163, R167). -/
theorem encTcReg_ok {c : BitVec 3} {tb : Byte} (h : encTcReg c = .ok tb) :
    ∃ ty, c = tcCode ty ∧ tb = encTc ty := by
  unfold encTcReg at h
  split at h
  · rename_i ty hty
    have hc := congrArg (BitVec.setWidth 3) (tcCode_of_tcOfCode _ ty hty)
    exact ⟨ty, by simpa using hc.symm, (Except.ok.inj h).symm⟩
  · cases h

/-- The same of the units (41_enum_codec.md R164, R167). -/
theorem encUnitReg_ok {c : BitVec 2} {ub : Byte} (h : encUnitReg c = .ok ub) :
    ∃ u, c = unitCode u ∧ ub = encUnit u := by
  unfold encUnitReg at h
  split at h
  · rename_i u hu
    have hc := congrArg (BitVec.setWidth 2) (unitCode_of_unitOfCode _ u hu)
    exact ⟨u, by simpa using hc.symm, (Except.ok.inj h).symm⟩
  · cases h

/-- Everything a frame of `Encode` is made of: two packed channels, a type, a unit and a time. -/
theorem encodeMessage_fields {x : Observation} {F : Frame} (h : encodeMessage x = .ok F) :
    ∃ a b k1 f1 k2 f2 ty u hh mm ss, x.channelTemp = [a, b] ∧ packTemp a = .ok (k1, f1) ∧
      packTemp b = .ok (k2, f2) ∧ x.tc = tcCode ty ∧ x.units = unitCode u ∧
      packTime x.meterTime = .ok (hh, mm, ss) ∧
      F = encodeFrame (messageFields k1 f1 k2 f2 ty u hh mm ss) := by
  obtain ⟨a, b, k1, f1, k2, f2, tb, ub, hh, mm, ss, hx, ha, hb, htb, hub, ht, rfl⟩ :=
    encodeMessage_ok x F h
  obtain ⟨ty, htc, rfl⟩ := encTcReg_ok htb
  obtain ⟨u, hu, rfl⟩ := encUnitReg_ok hub
  exact ⟨a, b, k1, f1, k2, f2, ty, u, hh, mm, ss, hx, ha, hb, htc, hu, ht,
    messageFrame_eq_encodeFrame ..⟩

/-- `Decode` accepts the frame of any fields and answers their record (R219). -/
theorem decodeMessage_encodeFrame (f : FrameFields) (now : Time) :
    decodeMessage (encodeFrame f).toList now = .ok (recordOf f now) :=
  (decodeMessage_ok_iff _ _ _).2 ⟨f, decodeFrame_encodeFrame f, rfl⟩

/-! ## `Decode` after `Encode` (R224) -/

/-- A packed count is a signed 16-bit integer (42_temperature.md R181). -/
theorem inS16_of_packTemp {t : F64} {k : Int} {fl : Byte} (h : packTemp t = .ok (k, fl)) :
    inS16 k = true := by
  rcases packTemp_ok t k fl h with ⟨_, rfl, _⟩ | ⟨_, _, hk, _⟩
  · rfl
  · exact hk

/-- The bytes of a packed time join to the whole seconds it had (43_meter_time.md R205 L2). -/
theorem joinDuration_of_packTime {d : Duration} {hh mm ss : Byte}
    (h : packTime d = .ok (hh, mm, ss)) : joinDuration hh mm ss = ⟨d.sec, 0⟩ := by
  rw [joinDuration, ← ((packTime_ok_iff d hh mm ss).1 h).1, BitVec.ofNat_toNat, BitVec.setWidth_eq]

/-- Settles O25: the fields come back as they were written, so each clause is one field's own round
trip. -/
theorem decodeAfterEncode : Obligations.DecodeAfterEncode := by
  intro x F now h
  obtain ⟨a, b, k1, f1, k2, f2, ty, u, hh, mm, ss, hx, ha, hb, htc, hu, ht, rfl⟩ :=
    encodeMessage_fields h
  obtain ⟨hnan0, hfin0⟩ := unpackTemp_of_packTemp ha
  obtain ⟨hnan1, hfin1⟩ := unpackTemp_of_packTemp hb
  rw [← sext16_u16 k1 (inS16_of_packTemp ha)] at hnan0 hfin0
  rw [← sext16_u16 k2 (inS16_of_packTemp hb)] at hnan1 hfin1
  exact ⟨_, a, b, decodeMessage_encodeFrame _ now, hx, hu.symm, htc.symm,
    joinDuration_of_packTime ht, rfl, hnan0, hfin0, hnan1, hfin1⟩

/-! ## `Encode` after `Decode` (R225) -/

/-- What the packer makes of an unpacked channel: the count again, or the placeholder of an invalid
one (42_temperature.md R188). -/
theorem packTemp_unpackTemp (m : Half) (fl : Byte) : packTemp (unpackTemp (sext16 m) fl) =
    .ok (sext16 (if channelValid fl then m else u16 Config.placeholder),
      flagByteFor (channelValid fl)) := by
  have hm := inS16_sext16 m
  unfold unpackTemp
  cases channelValid fl with
  | true => exact packTemp_of_inS16 (finiteTemp_flTenth hm) (tenthsOf_flTenth hm) hm
  | false => exact packTemp_of_not_finite (t := Config.quietNaN) (by decide)

/-- Below 256 hours the packed bytes of a joined time are the split of its sum
(43_meter_time.md R202, R203). -/
theorem packTime_joinDuration {hh mm ss : Byte} (h : joinTime hh mm ss < 921600) :
    packTime (joinDuration hh mm ss) = .ok (BitVec.ofNat 8 (splitTime (joinTime hh mm ss)).1,
      BitVec.ofNat 8 (splitTime (joinTime hh mm ss)).2.1,
      BitVec.ofNat 8 (splitTime (joinTime hh mm ss)).2.2) := by
  rw [packTime, wholeSeconds, joinDuration_sec]
  exact if_neg (show ¬ 255 < joinTime hh mm ss / 3600 by omega)

/-- Up to the time, `Encode` accepts every record `Decode` answers. -/
theorem encodeMessage_observationOf_recordOf (f : FrameFields) (now : Time) :
    encodeMessage (observationOf (recordOf f now)) =
      (packTime (joinDuration f.hh f.mm f.ss)).map fun t =>
        encodeFrame { canonicalFields f with hh := t.1, mm := t.2.1, ss := t.2.2 } := by
  rw [encodeMessage_of_packed rfl (packTemp_unpackTemp f.m1 f.fl1) (packTemp_unpackTemp f.m2 f.fl2)
    rfl rfl]
  simp only [messageFields, u16_sext16]
  rfl

/-- A channel's count and flag byte are canonical exactly when they stay as they are
(30_encoding.md R126). -/
theorem canonicalChannel_eq_iff (m : Half) (fl : Byte) :
    (if channelValid fl then m else u16 Config.placeholder) = m ∧
        flagByteFor (channelValid fl) = fl ↔
      fl = Config.flagValid ∨ fl = Config.flagInvalid ∧ m = 0x8000 := by
  constructor
  · rintro ⟨hm, hfl⟩
    cases hv : channelValid fl with
    | true => exact .inl (by rw [← hfl, hv]; rfl)
    | false =>
      rw [hv] at hm hfl
      exact .inr ⟨hfl.symm, hm.symm⟩
  · rintro (rfl | ⟨rfl, rfl⟩) <;> exact ⟨rfl, rfl⟩

/-- Three time bytes are the split of their joined time exactly when minutes and seconds are below 60
(30_encoding.md R126; 43_meter_time.md R205). -/
theorem splitTime_joinTime_eq_iff (hh mm ss : Byte) :
    (BitVec.ofNat 8 (splitTime (joinTime hh mm ss)).1 = hh ∧
        BitVec.ofNat 8 (splitTime (joinTime hh mm ss)).2.1 = mm ∧
        BitVec.ofNat 8 (splitTime (joinTime hh mm ss)).2.2 = ss) ↔
      mm.toNat ≤ 59 ∧ ss.toNat ≤ 59 := by
  have := hh.isLt
  simp only [← BitVec.toNat_inj, BitVec.toNat_ofNat, splitTime, joinTime]
  omega

/-- The canonical form is the frame itself exactly on the canonical frames (30_encoding.md R126). -/
theorem canonicalFields_eq_iff (f : FrameFields) :
    canonicalFields f = f ↔ isCanonical f = true := by
  have h1 := canonicalChannel_eq_iff f.m1 f.fl1
  have h2 := canonicalChannel_eq_iff f.m2 f.fl2
  have ht := splitTime_joinTime_eq_iff f.hh f.mm f.ss
  simp only [isCanonical, Bool.and_eq_true, Bool.or_eq_true, beq_iff_eq, decide_eq_true_eq, ← h1,
    ← h2]
  obtain ⟨pad, m1, m2, tcHigh, tc, unitHigh, units, fl1, fl2, hh, mm, ss⟩ := f
  simp only [canonicalFields, FrameFields.mk.injEq]
  tauto

/-- Settles O26: only the time can fail, and where it packs the bytes are those of the canonical
form. -/
theorem encodeAfterDecode : Obligations.EncodeAfterDecode := by
  refine fun f now => ⟨recordOf f now, decodeMessage_encodeFrame f now, fun h => ?_, fun h => ?_,
    canonicalFields_eq_iff f⟩
  · rw [encodeMessage_observationOf_recordOf, packTime_joinDuration h]
    rfl
  · rw [← joinDuration_sec] at h
    rw [encodeMessage_observationOf_recordOf, packTime_eq_error h]
    rfl

/-! ## A command that fails (R226, R227; 60_exceptions.md R285, R286) -/

/-- A command that fails leaves `STATUS` done with the error bit, since no error has code 0
(10_state.md R46). -/
theorem State.beginCommand_raise (s : State) (e : Err) : s.beginCommand.raise e =
    { s with status := 0b110, err := errCode e, errsub := errSubCode e } := by
  rw [State.raise, statusEnd, if_neg (errCode_ne_zero e)]
  rfl

theorem exec_cmdEncode_error {s : State} {e : Err} (hb : s.busy = false)
    (hr : s.encodeReady = true) (he : encodeMessage (observationOf s.record) = .error e) :
    exec .cmdEncode s = .next (s.beginCommand.raise e) := by
  simp [exec, execCmdEncode, hb, hr, he]

theorem exec_cmdDecode_error {s : State} {e : Err} (hb : s.busy = false)
    (hr : s.decodeReady = true) (he : decodeMessage s.frame.toList (s.nowAt 0) = .error e) :
    exec .cmdDecode s = .next (s.beginCommand.raise e) := by
  simp [exec, execCmdDecode, hb, hr, he]

/-- Settles O30: the codes are the table of R285, and both commands end in `raise`. -/
theorem failedCommandChangesOnlyTheErrorRegisters :
    Obligations.FailedCommandChangesOnlyTheErrorRegisters := by
  refine ⟨⟨fun c => rfl, rfl, fun c => rfl, rfl, rfl, rfl, rfl, rfl, rfl, rfl, rfl, rfl, rfl, rfl,
    rfl⟩, fun s hb => ⟨fun e hr he => ?_, fun e hr he => ?_⟩⟩
  · rw [exec_cmdEncode_error hb hr he, State.beginCommand_raise]
  · rw [exec_cmdDecode_error hb hr he, State.beginCommand_raise]

/-! ## An accepted frame (R219; 45_stream_framer.md R254) -/

theorem State.inTry_iff (s : State) : s.inTry = true ↔ s.busy = true ∧ s.fst = .tryWin := by
  simp [State.inTry]

/-- The window of a framer in `TRY` is accepted (45_stream_framer.md R254). -/
theorem exec_frame18_inTry (f : FrameFields) {s : State} (h : s.inTry = true) :
    exec (.frame18 f) s = .next (s.draw.accept (recordOf f (s.nowAt 0))) := if_pos h

/-- A frame by itself is returned as its observation (R219; notes/assumptions/1.md). -/
theorem exec_frame18_not_inTry (f : FrameFields) {s : State} (h : ¬ s.inTry = true) :
    exec (.frame18 f) s = .next (s.draw.returns (.observation (recordOf f (s.nowAt 0)))) := if_neg h

/-- Settles O44, by whether the framer is in `TRY`. -/
theorem acceptedFrameCompletes : Obligations.AcceptedFrameCompletes := fun f s =>
  ⟨fun hb hf => exec_frame18_inTry f (s.inTry_iff.2 ⟨hb, hf⟩),
    fun h => exec_frame18_not_inTry f (mt s.inTry_iff.1 h), decodeMessage_encodeFrame f _⟩

end Sys2Proof.Machine
end

section
/-! PROOFS. The statements of 45_stream_framer.md: `FindHeader` (R240), `ParseStream` with the shape of
its results, its stated properties and the split of a stream (R242, R257, R258, R260, R261), and the
steps of the framer, which compute it within their bound (R249 to R257, R259). -/

namespace Sys2Proof.Machine

/-! ## Where the header stands (R240) -/

/-- The two bytes of the header stand at an index of a byte sequence. -/
def headerIn (B : List Byte) (j : Nat) : Prop :=
  B[j]? = some Config.hdr0 ∧ B[j + 1]? = some Config.hdr1

theorem headerIn.lt_length {B : List Byte} {j : Nat} (h : headerIn B j) : j + 1 < B.length := by
  obtain ⟨_, h1⟩ := h
  exact (List.getElem?_eq_some_iff.1 h1).1

theorem headerIn_drop {B : List Byte} {c : Nat} : headerIn (B.drop c) 0 ↔ headerIn B c := by
  simp only [headerIn, List.getElem?_drop, Nat.zero_add, Nat.add_zero]

/-- What follows a sequence does not change the headers within it. -/
theorem headerIn_append {A C : List Byte} {j : Nat} (h : j + 1 < A.length) :
    headerIn (A ++ C) j ↔ headerIn A j := by
  simp only [headerIn, List.getElem?_append_left h, List.getElem?_append_left (Nat.lt_of_succ_lt h)]

theorem headerIn_zero_iff {B : List Byte} :
    headerIn B 0 ↔ ∃ tail, B = Config.hdr0 :: Config.hdr1 :: tail := by
  match B with
  | [] | [_] | _ :: _ :: _ => simp [headerIn]

theorem findHeader_of_headerIn {B : List Byte} {c : Nat} (h : headerIn B c) :
    findHeader B c = some c := by
  obtain ⟨h0, h1⟩ := h
  obtain ⟨_, h0⟩ := List.getElem?_eq_some_iff.1 h0
  obtain ⟨hl, h1⟩ := List.getElem?_eq_some_iff.1 h1
  rw [findHeader_step hl, if_pos ⟨h0, h1⟩]

theorem findHeader_of_not_headerIn {B : List Byte} {c : Nat} (h : ¬ headerIn B c) :
    findHeader B c = findHeader B (c + 1) := by
  by_cases hl : c + 1 < B.length
  · rw [findHeader_step hl, if_neg]
    rintro ⟨h0, h1⟩
    exact h ⟨List.getElem?_eq_some_iff.2 ⟨_, h0⟩, List.getElem?_eq_some_iff.2 ⟨hl, h1⟩⟩
  · rw [findHeader_short (by omega), findHeader_short (by omega)]

/-- What `FindHeader` answers: the least index of a header from its start on, or that there is none. -/
theorem findHeader_spec (B : List Byte) (c : Nat) :
    (∃ i, findHeader B c = some i ∧ IsLeast {j | c ≤ j ∧ headerIn B j} i) ∨
      (findHeader B c = none ∧ ∀ j, c ≤ j → ¬ headerIn B j) := by
  by_cases hh : headerIn B c
  · exact .inl ⟨c, findHeader_of_headerIn hh, ⟨le_rfl, hh⟩, fun j ⟨hc, _⟩ => hc⟩
  · have hnext : ∀ j, headerIn B j → c ≤ j → c + 1 ≤ j := fun j hj hc =>
      Nat.lt_of_le_of_ne hc fun he => hh (he ▸ hj)
    by_cases hl : B.length < c + 2
    · refine .inr ⟨findHeader_short hl, fun j hc hj => ?_⟩
      have := hj.lt_length
      omega
    · rw [findHeader_of_not_headerIn hh]
      rcases findHeader_spec B (c + 1) with ⟨i, hi, ⟨hci, hhi⟩, hmin⟩ | ⟨hn, hall⟩
      · exact .inl ⟨i, hi, ⟨Nat.le_of_succ_le hci, hhi⟩,
          fun j ⟨hc, hj⟩ => hmin ⟨hnext j hj hc, hj⟩⟩
      · exact .inr ⟨hn, fun j hc hj => hall j (hnext j hj hc) hj⟩
termination_by B.length - c

/-- Settles O36: there is one least index, and where there is an index the answer is not `NONE`. -/
theorem findHeaderFindsTheFirst : Obligations.FindHeaderFindsTheFirst := by
  intro B c _
  rcases findHeader_spec B c with ⟨i, hi, hleast⟩ | ⟨hn, hall⟩
  · have hiff (j : Nat) : findHeader B c = some j ↔ IsLeast {j | c ≤ j ∧ headerIn B j} j := by
      rw [hi, Option.some.injEq]
      exact ⟨fun h => h ▸ hleast, hleast.unique⟩
    obtain ⟨⟨hci, hhi⟩, _⟩ := hleast
    refine ⟨fun j => (hiff j).trans ⟨?_, ?_⟩, ?_⟩
    · rintro ⟨⟨hc, h0, h1⟩, hmin⟩
      exact ⟨hc, h0, h1, fun k hk hlt hh => absurd (hmin ⟨hk, hh⟩) (Nat.not_le.2 hlt)⟩
    · rintro ⟨hc, h0, h1, hmin⟩
      exact ⟨⟨hc, h0, h1⟩, fun k ⟨hk, hh⟩ => Nat.not_lt.1 fun hlt => hmin k hk hlt hh⟩
    · rw [hi]
      exact iff_of_false (Option.some_ne_none i) fun hall => hall i hci hhi
  · refine ⟨fun i => ?_, iff_of_true hn hall⟩
    rw [hn]
    exact iff_of_false (Option.some_ne_none i).symm fun ⟨hc, h0, h1, _⟩ => hall i hc ⟨h0, h1⟩

/-! ## `ParseStream` on the bytes that are left (R242 to R248) -/

/-- What `ParseStream` does with the bytes from its cursor on, without its bound: the k-th observation
takes the k-th of the times. It ends where no header fits or with an incomplete window; else it moves
on by one byte or by a window that decodes. -/
inductive Parses : (Nat → Time) → List Byte → List Record → List Byte → Prop
  | discard {now : Nat → Time} {L : List Byte} (hl : L.length < 2) : Parses now L [] []
  | keep {now : Nat → Time} {L : List Byte} (hh : headerIn L 0) (hl : L.length < 18) :
      Parses now L [] L
  | skip {now : Nat → Time} {L : List Byte} {out : List Record} {rem : List Byte}
      (hl : 2 ≤ L.length) (hn : ¬ headerIn L 0) (h : Parses now (L.drop 1) out rem) :
      Parses now L out rem
  | reject {now : Nat → Time} {L : List Byte} {out : List Record} {rem : List Byte} {e : Err}
      (hh : headerIn L 0) (hl : 18 ≤ L.length) (he : decodeFrame (L.take 18) = .error e)
      (h : Parses now (L.drop 1) out rem) : Parses now L out rem
  | accept {now : Nat → Time} {L : List Byte} {out : List Record} {rem : List Byte} {f : FrameFields}
      (hh : headerIn L 0) (hl : 18 ≤ L.length) (hd : decodeFrame (L.take 18) = .ok f)
      (h : Parses (fun k => now (k + 1)) (L.drop 18) out rem) :
      Parses now L (recordOf f (now 0) :: out) rem

/-- Every byte sequence parses (R257). -/
theorem exists_parses (now : Nat → Time) (L : List Byte) : ∃ out rem, Parses now L out rem := by
  by_cases h2 : L.length < 2
  · exact ⟨_, _, .discard h2⟩
  · obtain ⟨out, rem, hnext⟩ := exists_parses now (L.drop 1)
    by_cases hh : headerIn L 0
    · by_cases h18 : L.length < 18
      · exact ⟨_, _, .keep hh h18⟩
      · cases hd : decodeFrame (L.take 18) with
        | error e => exact ⟨_, _, .reject hh (Nat.not_lt.1 h18) hd hnext⟩
        | ok f =>
          obtain ⟨out', rem', hrest⟩ := exists_parses (fun k => now (k + 1)) (L.drop 18)
          exact ⟨_, _, .accept hh (Nat.not_lt.1 h18) hd hrest⟩
    · exact ⟨_, _, .skip (Nat.not_lt.1 h2) hh hnext⟩
termination_by L.length
decreasing_by all_goals simp only [List.length_drop]; omega

/-- The loop of `ParseStream` does what `Parses` says, whatever its bound, once that covers the bytes
left (R257). -/
theorem Parses.parseLoop_eq {times : Nat → Time} {L : List Byte} {new : List Record} {rem : List Byte}
    (h : Parses times L new rem) {B : List Byte} {now : Nat → Time} {fuel cur : Nat}
    {out : List Record} (hL : L = B.drop cur) (hnow : ∀ k, times k = now (out.length + k))
    (hfuel : B.length ≤ fuel + cur) : parseLoop B now (fuel + 1) cur out = (out ++ new, rem) := by
  induction h generalizing fuel cur out with
  | discard hl =>
    rw [hL, List.length_drop] at hl
    rw [parseLoop_no_header (findHeader_short (by omega)), List.append_nil]
  | keep hh hl =>
    subst hL
    have hh := headerIn_drop.1 hh
    have hlt := hh.lt_length
    rw [List.length_drop] at hl
    rw [parseLoop_partial (findHeader_of_headerIn hh) (by omega), List.append_nil]
  | skip hl hn _ ih =>
    subst hL
    rw [parseLoop_next_header (findHeader_of_not_headerIn (mt headerIn_drop.2 hn))]
    exact ih List.drop_drop hnow (by omega)
  | reject hh hl he _ ih =>
    subst hL
    rw [List.length_drop] at hl
    obtain ⟨fuel, rfl⟩ := Nat.exists_eq_add_one_of_ne_zero (show fuel ≠ 0 by omega)
    rw [parseLoop_reject (findHeader_of_headerIn (headerIn_drop.1 hh)) (by omega)
      ((decodeMessage_error_iff _ _ _).2 he)]
    exact ih List.drop_drop hnow (by omega)
  | accept hh hl hd _ ih =>
    subst hL
    rw [List.length_drop] at hl
    obtain ⟨fuel, rfl⟩ := Nat.exists_eq_add_one_of_ne_zero (show fuel ≠ 0 by omega)
    rw [parseLoop_accept (findHeader_of_headerIn (headerIn_drop.1 hh)) (by omega)
      ((decodeMessage_ok_iff _ _ _).2 ⟨_, hd, rfl⟩), ih List.drop_drop ?_ (by omega),
      List.append_assoc, hnow 0, Nat.add_zero]
    · rfl
    · intro k
      dsimp only
      rw [hnow, List.length_append, List.length_singleton, Nat.add_assoc, Nat.add_comm 1]

theorem Parses.parseLoop_from_start {now : Nat → Time} {B : List Byte} {out : List Record}
    {rem : List Byte} (h : Parses now B out rem) {fuel : Nat} (hfuel : B.length ≤ fuel) :
    parseLoop B now (fuel + 1) 0 [] = (out, rem) :=
  h.parseLoop_eq rfl (fun k => by rw [List.length_nil, Nat.zero_add]) hfuel

theorem Parses.parseStream_eq {now : Nat → Time} {B : List Byte} {out : List Record} {rem : List Byte}
    (h : Parses now B out rem) : parseStream B now = (out, rem) := h.parseLoop_from_start le_rfl

theorem parseStream_eq_iff {now : Nat → Time} {B : List Byte} {out : List Record} {rem : List Byte} :
    parseStream B now = (out, rem) ↔ Parses now B out rem := by
  refine ⟨fun h => ?_, Parses.parseStream_eq⟩
  obtain ⟨out', rem', hp⟩ := exists_parses now B
  obtain ⟨rfl, rfl⟩ := Prod.mk.inj (h.symm.trans hp.parseStream_eq)
  exact hp

theorem parses_parseStream (B : List Byte) (now : Nat → Time) :
    Parses now B (parseStream B now).1 (parseStream B now).2 := parseStream_eq_iff.1 rfl

/-- Settles O38: the loop gives the same result under every bound that covers the bytes left. -/
theorem parseLoopBoundIsEnough : Obligations.ParseLoopBoundIsEnough := fun B now k => by
  rw [Nat.add_right_comm]
  exact (parses_parseStream B now).parseLoop_from_start (Nat.le_add_right _ _)

/-! ## The shape of the results (R258) -/

/-- The windows of the observations `out`, at the indices `ps` of `B` and all below `q`: each is decoded
with the time of its place, and they lie one after the other (R258 (d)). -/
structure Windows (now : Nat → Time) (B : List Byte) (out : List Record) (ps : List Nat) (q : Nat) :
    Prop where
  count : ps.length = out.length
  disjoint : ps.Pairwise fun p p' => p + 18 ≤ p'
  decoded : ∀ (j p : Nat) (x : Record), ps[j]? = some p → out[j]? = some x →
    p + 18 ≤ q ∧ decodeMessage ((B.drop p).take 18) (now j) = .ok x

namespace Windows

variable {now : Nat → Time} {B : List Byte} {out : List Record} {ps : List Nat} {q : Nat}

theorem nil (now : Nat → Time) (B : List Byte) (q : Nat) : Windows now B [] [] q :=
  ⟨rfl, .nil, fun _ _ _ hp => nomatch hp⟩

/-- The windows of what follows the first bytes are windows of the whole. -/
theorem of_drop (n : Nat) (h : Windows now (B.drop n) out ps q) :
    Windows now B out (ps.map (n + ·)) (n + q) where
  count := (List.length_map _).trans h.count
  disjoint := List.pairwise_map.2 (h.disjoint.imp fun hp => by omega)
  decoded j p x hp hx := by
    rw [List.getElem?_map] at hp
    obtain ⟨p', hp', rfl⟩ := Option.map_eq_some_iff.1 hp
    obtain ⟨hq, hd⟩ := h.decoded j p' x hp' hx
    rw [List.drop_drop] at hd
    exact ⟨by omega, hd⟩

/-- A window that decodes, in front of those of what follows it. -/
theorem cons {x : Record} (hx : decodeMessage (B.take 18) (now 0) = .ok x)
    (h : Windows (fun k => now (k + 1)) (B.drop 18) out ps q) :
    Windows now B (x :: out) (0 :: ps.map (18 + ·)) (18 + q) where
  count := congrArg (· + 1) (h.of_drop 18).count
  disjoint := by
    refine List.pairwise_cons.2 ⟨fun p hp => ?_, (h.of_drop 18).disjoint⟩
    obtain ⟨p', _, rfl⟩ := List.mem_map.1 hp
    omega
  decoded
    | 0, p, y, hp, hy => by
      obtain rfl := Option.some.inj hp
      obtain rfl := Option.some.inj hy
      exact ⟨Nat.le_add_right _ _, hx⟩
    | j + 1, p, y, hp, hy => (h.of_drop 18).decoded j p y hp hy

end Windows

namespace Parses

variable {now : Nat → Time} {L : List Byte} {out : List Record} {rem : List Byte}

/-- The remainder is an incomplete window, or nothing (R258 (a), (b)). -/
theorem remainder (h : Parses now L out rem) :
    rem.length ≤ 17 ∧ (rem = [] ∨ headerIn rem 0) := by
  induction h with
  | discard => exact ⟨Nat.zero_le _, .inl rfl⟩
  | keep hh hl => exact ⟨Nat.le_of_lt_succ hl, .inr hh⟩
  | skip _ _ _ ih => exact ih
  | reject _ _ _ _ ih => exact ih
  | accept _ _ _ _ ih => exact ih

/-- The observations come from windows in front of the remainder, which is what follows (R258 (d),
(e)). -/
theorem windows (h : Parses now L out rem) :
    ∃ ps q, q ≤ L.length ∧ rem = L.drop q ∧ Windows now L out ps q := by
  induction h with
  | @discard now L hl => exact ⟨[], L.length, le_rfl, List.drop_length.symm, .nil now L _⟩
  | @keep now L => exact ⟨[], 0, Nat.zero_le _, rfl, .nil now L 0⟩
  | skip hl _ _ ih =>
    obtain ⟨ps, q, hq, hrem, hw⟩ := ih
    rw [List.length_drop] at hq
    exact ⟨_, 1 + q, by omega, hrem.trans List.drop_drop, hw.of_drop 1⟩
  | reject _ hl _ _ ih =>
    obtain ⟨ps, q, hq, hrem, hw⟩ := ih
    rw [List.length_drop] at hq
    exact ⟨_, 1 + q, by omega, hrem.trans List.drop_drop, hw.of_drop 1⟩
  | accept _ hl hd _ ih =>
    obtain ⟨ps, q, hq, hrem, hw⟩ := ih
    rw [List.length_drop] at hq
    exact ⟨_, 18 + q, by omega, hrem.trans List.drop_drop,
      hw.cons ((decodeMessage_ok_iff _ _ _).2 ⟨_, hd, rfl⟩)⟩

/-- Each observation has used 18 bytes of its own (R258 (c)). -/
theorem length_le (h : Parses now L out rem) : out.length ≤ L.length / 18 := by
  induction h with
  | discard | keep => exact Nat.zero_le _
  | skip _ _ _ ih | reject _ _ _ _ ih => rw [List.length_drop] at ih; omega
  | accept _ hl _ _ ih => rw [List.length_drop] at ih; rw [List.length_cons]; omega

/-- Only the times of the observations made are looked at (R247). -/
theorem congr_times (h : Parses now L out rem) {times : Nat → Time}
    (ht : ∀ k < out.length, times k = now k) : Parses times L out rem := by
  induction h generalizing times with
  | discard hl => exact .discard hl
  | keep hh hl => exact .keep hh hl
  | skip hl hn _ ih => exact .skip hl hn (ih ht)
  | reject hh hl he _ ih => exact .reject hh hl he (ih ht)
  | accept hh hl hd _ ih =>
    rw [← ht 0 (Nat.zero_lt_succ _)]
    exact .accept hh hl hd (ih fun k hk => ht (k + 1) (Nat.succ_lt_succ hk))

end Parses

/-- Settles O39. -/
theorem parseStreamResultShape : Obligations.ParseStreamResultShape := by
  intro B now out rem h
  have hp := parseStream_eq_iff.1 h
  obtain ⟨hlen, hrem⟩ := hp.remainder
  obtain ⟨ps, q, hq, hdrop, hw⟩ := hp.windows
  exact ⟨hlen, hrem.imp_right headerIn_zero_iff.1, hp.length_le, ps, q, hq, hdrop, hw.count,
    hw.disjoint, hw.decoded⟩

/-! ## Valid messages in a stream (R260) -/

/-- A valid message at the front of the stream is taken whole. -/
theorem Parses.message {now : Nat → Time} {F L : List Byte} {f : FrameFields} {out : List Record}
    {rem : List Byte} (hf : decodeFrame F = .ok f) (h : Parses (fun k => now (k + 1)) L out rem) :
    Parses now (F ++ L) (recordOf f (now 0) :: out) rem := by
  obtain ⟨hl, _, _, hhdr, _⟩ := decodeFrame_ok F f hf
  have hh : headerIn F 0 := (eq2_iff _ _ _ _).1 hhdr
  refine .accept ((headerIn_append hh.lt_length).2 hh) ?_ ?_ ?_
  · rw [List.length_append, hl]
    exact Nat.le_add_right _ _
  · rwa [List.take_left' hl]
  · rwa [List.drop_left' hl]

theorem parses_nil (now : Nat → Time) : Parses now [] [] [] := .discard (Nat.zero_lt_succ _)

/-- Settles O40, from the end of each stream to its front. -/
theorem parseStreamStatedProperties : Obligations.ParseStreamStatedProperties := by
  refine fun now => ⟨(parses_nil now).parseStream_eq, fun F G f g hf hg => ?_⟩
  have hF : Parses now F [recordOf f (now 0)] [] := by
    simpa using Parses.message hf (parses_nil fun k => now (k + 1))
  have hG : Parses (fun k => now (k + 1)) G [recordOf g (now 1)] [] := by
    simpa using Parses.message (now := fun k => now (k + 1)) hg (parses_nil fun k => now (k + 1 + 1))
  refine ⟨hF.parseStream_eq, Parses.parseStream_eq (.skip ?_ ?_ hF),
    Parses.parseStream_eq (.message hf hG),
    fun b => Parses.parseStream_eq (.message hf (.keep ⟨rfl, rfl⟩ (by simp)))⟩
  · obtain ⟨hl, _⟩ := decodeFrame_ok F f hf
    rw [List.length_cons, hl]
    decide
  · simp [headerIn]

/-! ## A stream in two calls (R261) -/

/-- The bytes left end as the whole does. -/
theorem not_on_the_cut_drop {A C : List Byte} {rem : List Byte} (n : Nat)
    (h : ¬ (rem = [] ∧ A.getLast? = some Config.hdr0 ∧ C.head? = some Config.hdr1)) :
    ¬ (rem = [] ∧ (A.drop n).getLast? = some Config.hdr0 ∧ C.head? = some Config.hdr1) := by
  refine fun ⟨hr, hl, hc⟩ => h ⟨hr, ?_, hc⟩
  rw [List.getLast?_drop] at hl
  split at hl
  · exact absurd hl.symm (Option.some_ne_none _)
  · exact hl

/-- Bytes in which no header fits are passed over also in front of more bytes, unless a header stands
on the cut. -/
theorem Parses.append_of_length_lt_two {now : Nat → Time} {A C : List Byte} {out : List Record}
    {rem : List Byte} (hA : A.length < 2) (h : Parses now C out rem)
    (hcut : ¬ (A.getLast? = some Config.hdr0 ∧ C.head? = some Config.hdr1)) :
    Parses now (A ++ C) out rem := by
  match A, hA with
  | [], _ => exact h
  | [a], _ =>
    cases C with
    | nil =>
      obtain ⟨rfl, rfl⟩ := Prod.mk.inj (h.parseStream_eq.symm.trans (parses_nil now).parseStream_eq)
      exact .discard (Nat.lt_succ_self _)
    | cons c C => exact .skip (by simp) (fun ⟨h0, h1⟩ => hcut ⟨h0, h1⟩) h

/-- The decisions on the first chunk are those on the whole stream: the second call goes on where the
first has ended. -/
theorem Parses.append {now : Nat → Time} {A C : List Byte} {o1 o2 : List Record} {r1 r2 : List Byte}
    (h1 : Parses now A o1 r1) (h2 : Parses (fun k => now (o1.length + k)) (r1 ++ C) o2 r2)
    (hcut : ¬ (r1 = [] ∧ A.getLast? = some Config.hdr0 ∧ C.head? = some Config.hdr1)) :
    Parses now (A ++ C) (o1 ++ o2) r2 := by
  induction h1 with
  | discard hl =>
    refine .append_of_length_lt_two hl ?_ fun hc => hcut ⟨rfl, hc⟩
    simpa using h2
  | keep => simpa using h2
  | skip hl hn _ ih =>
    refine .skip ?_ (mt (headerIn_append hl).1 hn) ?_
    · rw [List.length_append]; omega
    · rw [List.drop_append_of_le_length (by omega)]
      exact ih h2 (not_on_the_cut_drop 1 hcut)
  | reject hh hl he _ ih =>
    rw [← List.take_append_of_le_length (l₂ := C) hl] at he
    refine .reject ((headerIn_append hh.lt_length).2 hh) ?_ he ?_
    · rw [List.length_append]; omega
    · rw [List.drop_append_of_le_length (by omega)]
      exact ih h2 (not_on_the_cut_drop 1 hcut)
  | accept hh hl hd _ ih =>
    rw [← List.take_append_of_le_length (l₂ := C) hl] at hd
    refine .accept ((headerIn_append hh.lt_length).2 hh) ?_ hd ?_
    · rw [List.length_append]; omega
    · rw [List.drop_append_of_le_length hl]
      refine ih ?_ (not_on_the_cut_drop 18 hcut)
      simpa only [List.length_cons, Nat.add_right_comm] using h2

/-- Settles O41. -/
theorem splitStreamGivesTheSameResults : Obligations.SplitStreamGivesTheSameResults :=
  fun _ _ _ _ _ _ _ h1 h2 hcut =>
    ((parseStream_eq_iff.1 h1).append (parseStream_eq_iff.1 h2) hcut).parseStream_eq

/-! ## The rows of the two functions (R240, R241, R247) -/

theorem timesOf_of_getElem? {B : List Byte} {nows : List Time} {k : Nat} {n : Time}
    (h : nows[k]? = some n) : timesOf B nows k = n := by simp [timesOf, h]

/-- Settles O37: a supply as long as the observations leaves no free time to be looked at. -/
theorem streamFunctionsComplete : Obligations.StreamFunctionsComplete := by
  refine fun B s => ⟨fun c => rfl, fun nows => ⟨_, _, rfl, rfl, fun k n => timesOf_of_getElem?,
    fun hlen => ?_, (parses_parseStream B (timesOf B nows)).length_le⟩⟩
  refine ((parses_parseStream B (timesOf B nows)).congr_times fun k hk => ?_).parseStream_eq
  have hn := List.getElem?_eq_getElem (hk.trans_le hlen)
  rw [timesOf_of_getElem? hn, List.getD_eq_getElem?_getD, hn, Option.getD_some]

/-! ## The steps of the framer (R249 to R256) -/

/-- Settles O32. -/
theorem parseCommandStartsTheFramer : Obligations.ParseCommandStartsTheFramer := by
  intro s hb
  have hexec : ∀ t : State, t.busy = false → exec .cmdParse t = .next t.startParse := fun t ht => by
    simp [exec, execCmdParse, ht]
  rw [State.writeCmd_parse hb]
  exact ⟨hexec s hb, rfl, hexec { s with cmd := 3, port := .empty } hb,
    step_scan rfl (s.startParse_busy) rfl⟩

/-- With no room for a header `SCAN` ends the command (R250). -/
theorem scanStep_of_short {s : State} (h : s.len < s.cur + 2) : scanStep s = .next s.discardAll :=
  if_pos h

/-- With room for a header `SCAN` compares the two bytes at the cursor (R250, R251). -/
theorem scanStep_of_room {s : State} {a b : Byte} (hl : s.cur + 2 ≤ s.len)
    (ha : s.buf.read s.cur = some a) (hb : s.buf.read (s.cur + 1) = some b) :
    scanStep s = if a = Config.hdr0 ∧ b = Config.hdr1 then .next { s with fst := .lenchk }
      else .next s.skipByte := by
  have hr : s.buf.readRange s.cur 2 = some [a, b] := by simp [Memory.readRange, ha, hb]
  rw [scanStep, if_neg (Nat.not_lt.2 hl), State.memRead_bytes hl hr]
  refine if_congr ?_ rfl rfl
  rw [eq2_iff]
  simp

/-- Settles O42. -/
theorem scanSteps : Obligations.ScanSteps := by
  intro s hp hb hf
  rw [step_scan hp hb hf]
  refine ⟨scanStep_of_short, fun a b hl ha hb' => ⟨fun h => ?_, fun h => ?_⟩⟩
  · rw [scanStep_of_room hl ha hb', if_pos h]
  · rw [scanStep_of_room hl ha hb', if_neg h, State.skipByte, ← hf]

theorem lenchkStep_of_window {s : State} (h : s.cur + 18 ≤ s.len) :
    lenchkStep s = .next { s with fst := .tryWin } := if_pos (Nat.le_sub_of_add_le' h)

theorem lenchkStep_of_short {s : State} (h : s.len < s.cur + 18) : lenchkStep s = .next s.keepRest :=
  if_neg fun (hw : 18 ≤ s.len - s.cur) => by omega

/-- Settles O43: the window's checks decide which of the two `TRY` steps is made. -/
theorem lenchkAndTrySteps : Obligations.LenchkAndTrySteps := by
  refine fun s hp hb => ⟨fun hf hl => ?_, fun hf hl => ?_, fun w hf hl hr => ⟨fun x hx => ?_,
    fun e he => ?_⟩⟩
  · rw [step_lenchk hp hb hf, lenchkStep_of_window hl]
  · rw [step_lenchk hp hb hf, lenchkStep_of_short hl]
    rfl
  · obtain ⟨f, hd, rfl⟩ := (decodeMessage_ok_iff _ _ _).1 hx
    rw [step_window_ok (i := .frame18 f) hp hb hf hl hr (by simp [decode, hd]),
      exec_frame18_inTry f (s.inTry_iff.2 ⟨hb, hf⟩)]
    rfl
  · have hd := (decodeMessage_error_iff _ _ _).1 he
    rw [step_window_error (e := .codec e) hp hb hf hl hr (by simp [decode, hd])]
    rfl

/-! ## A `PARSE` ends with the result of `ParseStream` (R257, R259) -/

theorem runSteps_idle {s : State} (hp : s.port = .empty) (hb : s.busy = false) (n : Nat) :
    runSteps n s = .next s := by
  induction n with
  | zero => rfl
  | succ n ih => simp only [runSteps, step_idle hp hb, ih]

/-- Steps made after the end of a command change nothing. -/
theorem runSteps_of_runCommand {n : Nat} {s t : State} (h : runCommand n s = .next t)
    (hp : t.port = .empty) (hb : t.busy = false) : runSteps n s = .next t := by
  induction n generalizing s with
  | zero => exact h
  | succ n ih =>
    cases hs : s.busy with
    | false =>
      obtain rfl := Host.Outcome.next.inj ((State.runCommand_of_idle (n + 1) hs).symm.trans h)
      exact runSteps_idle hp hb (n + 1)
    | true =>
      rw [runCommand, if_pos hs] at h
      rw [runSteps]
      cases hstep : step s with
      | next u => rw [hstep] at h; exact ih h
      | fault e => rw [hstep] at h; cases h
      | refused r => rw [hstep] at h; cases h

/-- From the start of a `PARSE` over written data the block has ended within the bound of R257. -/
theorem runSteps_startParse {s : State} {B : List Byte} (hp : s.port = .empty)
    (hB : s.holdsStream B) : ∃ t, runSteps (3 * s.len + 1) s.startParse = .next t ∧
      t.busy = false ∧ t.fst = .done := by
  obtain ⟨t, hrun, ht⟩ := (State.parsing_start (B := B) hp).run hB (n := 3 * s.len + 1) le_rfl
  obtain ⟨_, _, _, _, _, _, _, hport, _⟩ := ht.frame
  exact ⟨t, runSteps_of_runCommand hrun (hport.trans hp) ht.busy, ht.busy, ht.fst⟩

/-- Settles O45: the write of `CMD` starts the same `PARSE`, with the port empty. -/
theorem parseEndsWithinItsBound : Obligations.ParseEndsWithinItsBound := by
  intro s B hp hb hB
  refine ⟨runSteps_startParse hp hB, ?_⟩
  rw [State.writeCmd_parse hb]
  exact runSteps_startParse (s := { s with cmd := 3, port := .empty }) rfl hB

/-- Settles O46: the start draws nothing from `now`. -/
theorem parseCommandComputesParseStream : Obligations.ParseCommandComputesParseStream := by
  intro s B _ hb hB
  obtain ⟨t, hrun, ht⟩ := State.command_parse hb hB
  have hbusy := ht.busy
  have hfst := ht.fst
  have hcount := ht.count
  rw [State.writeCmd_parse hb] at ht
  obtain ⟨hst, he, hsub⟩ := ht.ended
  obtain ⟨hrec, _, hframe, _⟩ := ht.frame
  exact ⟨t, hrun, hbusy, hfst, ht.out, hcount, ht.remainder, hst, he, hsub, hrec, hframe⟩

end Sys2Proof.Machine
end

section
/-! PROOFS. The statement of 70_reset_and_hazards.md on the reset input: whatever the block was doing,
it leaves the reset state (R310, R311). -/

namespace Sys2Proof.Machine

@[simp] theorem State.hostReset_port (s : State) : s.hostReset.port = .empty := rfl

@[simp] theorem State.hostReset_busy (s : State) : s.hostReset.busy = false :=
  (by decide : State.reset.busy = false)

/-- The invariant speaks of no field of the `now` input, so it holds as at reset. -/
theorem State.inv_hostReset (s : State) : s.hostReset.Inv := invariantHoldsAtReset

/-- Settles O50: the reset state is idle with an empty port, so the next step does nothing (R312). -/
theorem resetInputAbandonsEverything : Obligations.ResetInputAbandonsEverything := fun s =>
  ⟨rfl, s.inv_hostReset, s.hostReset_busy, step_idle s.hostReset_port s.hostReset_busy⟩

end Sys2Proof.Machine
end
